-- ==== Sys2Proof/Word.lean ====
section
/-! DEFINITION. The word types of the machine: bytes, 16-bit words, register indices (rules R6, R11, R13, R14, R71). -/

namespace Sys2Proof

/-- An 8-bit unsigned value: a general register, a timer, a byte of memory (R6, R11, R16, R20). -/
abbrev Byte := BitVec 8

/-- A 16-bit unsigned value: I, PC, a return address, an opcode (R6, R13, R14, R15, R70). -/
abbrev Word := BitVec 16

/-- The index of a general register, the value of an x or y field (R11, R71). -/
abbrev Reg := Fin 16

/-- V0, the offset of `JP V0, nnn` and the first register of the block transfers (R11). -/
abbrev Reg.v0 : Reg := 0

/-- VF, the flag register (R12). -/
abbrev Reg.vF : Reg := 15

end Sys2Proof
end

