-- ==== Sys2Proof/Syntax.lean ====
section
/-! DEFINITION. The instructions: one constructor for each of the 34 rows of the opcode map (rules R72, R75). -/

namespace Sys2Proof

/-- One constructor per row of R75, its arguments the fields of its format (R72). The nibble a row's decoder ignores
(R77) is carried last, so that no bit of an opcode is dropped; no meaning reads it. -/
inductive Instr where
  /-- 00E0 `CLS` (R198). -/
  | cls
  /-- 00EE `RET` (R122). -/
  | ret
  /-- 1nnn `JP nnn` (R120). -/
  | jp (nnn : BitVec 12)
  /-- 2nnn `CALL nnn` (R121). -/
  | call (nnn : BitVec 12)
  /-- 3xkk `SE Vx, kk` (R123). -/
  | seVxKk (x : Reg) (kk : Byte)
  /-- 4xkk `SNE Vx, kk` (R124). -/
  | sneVxKk (x : Reg) (kk : Byte)
  /-- 5xy_ `SE Vx, Vy` (R125); `n` is ignored (R77). -/
  | seVxVy (x y : Reg) (n : BitVec 4)
  /-- 6xkk `LD Vx, kk` (R140). -/
  | ldVxKk (x : Reg) (kk : Byte)
  /-- 7xkk `ADD Vx, kk` (R141). -/
  | addVxKk (x : Reg) (kk : Byte)
  /-- 8xy0 `LD Vx, Vy` (R142). -/
  | ldVxVy (x y : Reg)
  /-- 8xy1 `OR Vx, Vy` (R143). -/
  | orVxVy (x y : Reg)
  /-- 8xy2 `AND Vx, Vy` (R144). -/
  | andVxVy (x y : Reg)
  /-- 8xy3 `XOR Vx, Vy` (R145). -/
  | xorVxVy (x y : Reg)
  /-- 8xy4 `ADD Vx, Vy` (R161). -/
  | addVxVy (x y : Reg)
  /-- 8xy5 `SUB Vx, Vy` (R162). -/
  | subVxVy (x y : Reg)
  /-- 8xy6 `SHR Vx` (R163); `y` is ignored (R77). -/
  | shrVx (x y : Reg)
  /-- 8xy7 `SUBN Vx, Vy` (R164). -/
  | subnVxVy (x y : Reg)
  /-- 8xyE `SHL Vx` (R165); `y` is ignored (R77). -/
  | shlVx (x y : Reg)
  /-- 9xy_ `SNE Vx, Vy` (R126); `n` is ignored (R77). -/
  | sneVxVy (x y : Reg) (n : BitVec 4)
  /-- Annn `LD I, nnn` (R180). -/
  | ldINnn (nnn : BitVec 12)
  /-- Bnnn `JP V0, nnn` (R182). -/
  | jpV0Nnn (nnn : BitVec 12)
  /-- Cxkk `RND Vx, kk` (R190). -/
  | rndVxKk (x : Reg) (kk : Byte)
  /-- Dxyn `DRW Vx, Vy, n` (R196). -/
  | drwVxVyN (x y : Reg) (n : BitVec 4)
  /-- Ex9E `SKP Vx` (R210). -/
  | skpVx (x : Reg)
  /-- ExA1 `SKNP Vx` (R211). -/
  | sknpVx (x : Reg)
  /-- Fx07 `LD Vx, DT` (R225). -/
  | ldVxDt (x : Reg)
  /-- Fx0A `LD Vx, K` (R212). -/
  | ldVxK (x : Reg)
  /-- Fx15 `LD DT, Vx` (R226). -/
  | ldDtVx (x : Reg)
  /-- Fx18 `LD ST, Vx` (R227). -/
  | ldStVx (x : Reg)
  /-- Fx1E `ADD I, Vx` (R181). -/
  | addIVx (x : Reg)
  /-- Fx29 `LD F, Vx` (R240). -/
  | ldFVx (x : Reg)
  /-- Fx33 `LD B, Vx` (R241). -/
  | ldBVx (x : Reg)
  /-- Fx55 `LD [I], Vx` (R242). -/
  | ldMemVx (x : Reg)
  /-- Fx65 `LD Vx, [I]` (R243). -/
  | ldVxMem (x : Reg)
  deriving DecidableEq, Repr

end Sys2Proof
end

