-- ==== Sys2Proof/WellFormed.lean ====
section
/-! DEFINITION. Well-formed instructions: the canonical forms, the ones an assembler emits (rule R77). The widths of the
fields (R71) are in the constructors' types, so the ignored nibbles are all that is left to check. -/

namespace Sys2Proof

/-- The instruction is in its canonical form: "the ignored nibble 0: 5xy0, 9xy0, 8x06, 8x0E" (R77). An instruction that is
not still decodes and runs, with the same meaning; this check says only what an assembler writes. -/
def Instr.wellFormed : Instr → Bool
  | .seVxVy _ _ n => n == 0
  | .sneVxVy _ _ n => n == 0
  | .shrVx _ y => y == 0
  | .shlVx _ y => y == 0
  | .cls | .ret | .jp _ | .call _ | .seVxKk _ _ | .sneVxKk _ _ | .ldVxKk _ _ | .addVxKk _ _ | .ldVxVy _ _ | .orVxVy _ _
  | .andVxVy _ _ | .xorVxVy _ _ | .addVxVy _ _ | .subVxVy _ _ | .subnVxVy _ _ | .ldINnn _ | .jpV0Nnn _ | .rndVxKk _ _
  | .drwVxVyN _ _ _ | .skpVx _ | .sknpVx _ | .ldVxDt _ | .ldVxK _ | .ldDtVx _ | .ldStVx _ | .addIVx _ | .ldFVx _
  | .ldBVx _ | .ldMemVx _ | .ldVxMem _ => true

end Sys2Proof
end

