-- ==== Sys2Proof/Decode.lean ====
section
/-! DEFINITION. The decoder of rules R71, R74, R75, R78, R79, total on every opcode and every byte sequence; after it the
encoder, written from the same opcode map. -/

namespace Sys2Proof

/-! ## Fields (R71) -/

/-- The op family, op[15:12]. -/
def opFam (op : Word) : BitVec 4 := op.extractLsb' 12 4

/-- The x field, op[11:8]. -/
def opX (op : Word) : Reg := (op.extractLsb' 8 4).toFin

/-- The y field, op[7:4]. -/
def opY (op : Word) : Reg := (op.extractLsb' 4 4).toFin

/-- The n field, op[3:0]. -/
def opN (op : Word) : BitVec 4 := op.extractLsb' 0 4

/-- The kk field, op[7:0]. -/
def opKk (op : Word) : Byte := op.extractLsb' 0 8

/-- The nnn field, op[11:0]. -/
def opNnn (op : Word) : BitVec 12 := op.extractLsb' 0 12

/-! ## The decoder (R74, R75, R80) -/

/-- Family 0 is matched on all 16 bits (R79). -/
def decodeFam0 (op : Word) : Option Instr :=
  if op = 0x00E0 then some .cls
  else if op = 0x00EE then some .ret
  else none

/-- Family 8 is told apart by op[3:0] (R74). -/
def decodeFam8 (op : Word) : Option Instr :=
  if opN op = 0x0 then some (.ldVxVy (opX op) (opY op))
  else if opN op = 0x1 then some (.orVxVy (opX op) (opY op))
  else if opN op = 0x2 then some (.andVxVy (opX op) (opY op))
  else if opN op = 0x3 then some (.xorVxVy (opX op) (opY op))
  else if opN op = 0x4 then some (.addVxVy (opX op) (opY op))
  else if opN op = 0x5 then some (.subVxVy (opX op) (opY op))
  else if opN op = 0x6 then some (.shrVx (opX op) (opY op))
  else if opN op = 0x7 then some (.subnVxVy (opX op) (opY op))
  else if opN op = 0xE then some (.shlVx (opX op) (opY op))
  else none

/-- Family E is told apart by op[7:0] (R74). -/
def decodeFamE (op : Word) : Option Instr :=
  if opKk op = 0x9E then some (.skpVx (opX op))
  else if opKk op = 0xA1 then some (.sknpVx (opX op))
  else none

/-- Family F is told apart by op[7:0] (R74). -/
def decodeFamF (op : Word) : Option Instr :=
  if opKk op = 0x07 then some (.ldVxDt (opX op))
  else if opKk op = 0x0A then some (.ldVxK (opX op))
  else if opKk op = 0x15 then some (.ldDtVx (opX op))
  else if opKk op = 0x18 then some (.ldStVx (opX op))
  else if opKk op = 0x1E then some (.addIVx (opX op))
  else if opKk op = 0x29 then some (.ldFVx (opX op))
  else if opKk op = 0x33 then some (.ldBVx (opX op))
  else if opKk op = 0x55 then some (.ldMemVx (opX op))
  else if opKk op = 0x65 then some (.ldVxMem (opX op))
  else none

/-- The decoder: every 16-bit value selects one instruction or is unknown (R75, R78, R80, R103). -/
def decode (op : Word) : Option Instr :=
  if opFam op = 0x0 then decodeFam0 op
  else if opFam op = 0x1 then some (.jp (opNnn op))
  else if opFam op = 0x2 then some (.call (opNnn op))
  else if opFam op = 0x3 then some (.seVxKk (opX op) (opKk op))
  else if opFam op = 0x4 then some (.sneVxKk (opX op) (opKk op))
  else if opFam op = 0x5 then some (.seVxVy (opX op) (opY op) (opN op))
  else if opFam op = 0x6 then some (.ldVxKk (opX op) (opKk op))
  else if opFam op = 0x7 then some (.addVxKk (opX op) (opKk op))
  else if opFam op = 0x8 then decodeFam8 op
  else if opFam op = 0x9 then some (.sneVxVy (opX op) (opY op) (opN op))
  else if opFam op = 0xA then some (.ldINnn (opNnn op))
  else if opFam op = 0xB then some (.jpV0Nnn (opNnn op))
  else if opFam op = 0xC then some (.rndVxKk (opX op) (opKk op))
  else if opFam op = 0xD then some (.drwVxVyN (opX op) (opY op) (opN op))
  else if opFam op = 0xE then decodeFamE op
  else decodeFamF op

/-- Why a byte sequence gives no instruction. -/
inductive DecodeReject where
  /-- The opcode matches no row of R75 (R78). -/
  | unknownOpcode (op : Word)
  /-- Fewer than the two bytes of an opcode (R70). -/
  | truncated
  deriving DecidableEq, Repr

/-- The opcode of two consecutive bytes, high byte first (R44, R45). -/
def opcodeOf (hi lo : Byte) : Word := hi ++ lo

/-- The first instruction of a byte sequence and the bytes after it, or the rejection by name. -/
def decodeBytes : List Byte → Except DecodeReject (Instr × List Byte)
  | hi :: lo :: rest =>
    match decode (opcodeOf hi lo) with
    | some i => .ok (i, rest)
    | none => .error (.unknownOpcode (opcodeOf hi lo))
  | [_] => .error .truncated
  | [] => .error .truncated

/-! ## The encoder (R72, R75) -/

/-- A register index as its 4-bit field. -/
def regBits (r : Reg) : BitVec 4 := BitVec.ofFin r

/-- Format NNN. -/
def encNnn (fam : BitVec 4) (nnn : BitVec 12) : Word := fam ++ nnn

/-- Format XKK; format X with `kk` its fixed low byte. -/
def encXKk (fam : BitVec 4) (x : Reg) (kk : Byte) : Word := fam ++ (regBits x ++ kk)

/-- Format XYN; format XY with `n` its low nibble. -/
def encXYN (fam : BitVec 4) (x y : Reg) (n : BitVec 4) : Word := fam ++ (regBits x ++ (regBits y ++ n))

/-- The opcode of an instruction (R75), the ignored nibbles as the instruction carries them. -/
def encode : Instr → Word
  | .cls => 0x00E0
  | .ret => 0x00EE
  | .jp nnn => encNnn 0x1 nnn
  | .call nnn => encNnn 0x2 nnn
  | .seVxKk x kk => encXKk 0x3 x kk
  | .sneVxKk x kk => encXKk 0x4 x kk
  | .seVxVy x y n => encXYN 0x5 x y n
  | .ldVxKk x kk => encXKk 0x6 x kk
  | .addVxKk x kk => encXKk 0x7 x kk
  | .ldVxVy x y => encXYN 0x8 x y 0x0
  | .orVxVy x y => encXYN 0x8 x y 0x1
  | .andVxVy x y => encXYN 0x8 x y 0x2
  | .xorVxVy x y => encXYN 0x8 x y 0x3
  | .addVxVy x y => encXYN 0x8 x y 0x4
  | .subVxVy x y => encXYN 0x8 x y 0x5
  | .shrVx x y => encXYN 0x8 x y 0x6
  | .subnVxVy x y => encXYN 0x8 x y 0x7
  | .shlVx x y => encXYN 0x8 x y 0xE
  | .sneVxVy x y n => encXYN 0x9 x y n
  | .ldINnn nnn => encNnn 0xA nnn
  | .jpV0Nnn nnn => encNnn 0xB nnn
  | .rndVxKk x kk => encXKk 0xC x kk
  | .drwVxVyN x y n => encXYN 0xD x y n
  | .skpVx x => encXKk 0xE x 0x9E
  | .sknpVx x => encXKk 0xE x 0xA1
  | .ldVxDt x => encXKk 0xF x 0x07
  | .ldVxK x => encXKk 0xF x 0x0A
  | .ldDtVx x => encXKk 0xF x 0x15
  | .ldStVx x => encXKk 0xF x 0x18
  | .addIVx x => encXKk 0xF x 0x1E
  | .ldFVx x => encXKk 0xF x 0x29
  | .ldBVx x => encXKk 0xF x 0x33
  | .ldMemVx x => encXKk 0xF x 0x55
  | .ldVxMem x => encXKk 0xF x 0x65

/-- The byte of an opcode at the lower address, op[15:8] (R45). -/
def highByte (op : Word) : Byte := op.extractLsb' 8 8

/-- The byte of an opcode at the higher address, op[7:0] (R45). -/
def lowByte (op : Word) : Byte := op.extractLsb' 0 8

/-- The two bytes of an opcode as memory holds them (R45, R70). -/
def opcodeBytes (op : Word) : List Byte := [highByte op, lowByte op]

/-! ## The opcode map as the table prints it (R75) -/

/-- The mask column of an instruction's row. -/
def rowMask : Instr → Word
  | .cls | .ret => 0xFFFF
  | .jp _ | .call _ | .seVxKk _ _ | .sneVxKk _ _ | .seVxVy _ _ _ | .ldVxKk _ _ | .addVxKk _ _ | .sneVxVy _ _ _ | .ldINnn _
  | .jpV0Nnn _ | .rndVxKk _ _ | .drwVxVyN _ _ _ => 0xF000
  | .ldVxVy _ _ | .orVxVy _ _ | .andVxVy _ _ | .xorVxVy _ _ | .addVxVy _ _ | .subVxVy _ _ | .shrVx _ _ | .subnVxVy _ _
  | .shlVx _ _ => 0xF00F
  | .skpVx _ | .sknpVx _ | .ldVxDt _ | .ldVxK _ | .ldDtVx _ | .ldStVx _ | .addIVx _ | .ldFVx _ | .ldBVx _ | .ldMemVx _
  | .ldVxMem _ => 0xF0FF

/-- The match column of an instruction's row. -/
def rowMatch : Instr → Word
  | .cls => 0x00E0
  | .ret => 0x00EE
  | .jp _ => 0x1000
  | .call _ => 0x2000
  | .seVxKk _ _ => 0x3000
  | .sneVxKk _ _ => 0x4000
  | .seVxVy _ _ _ => 0x5000
  | .ldVxKk _ _ => 0x6000
  | .addVxKk _ _ => 0x7000
  | .ldVxVy _ _ => 0x8000
  | .orVxVy _ _ => 0x8001
  | .andVxVy _ _ => 0x8002
  | .xorVxVy _ _ => 0x8003
  | .addVxVy _ _ => 0x8004
  | .subVxVy _ _ => 0x8005
  | .shrVx _ _ => 0x8006
  | .subnVxVy _ _ => 0x8007
  | .shlVx _ _ => 0x800E
  | .sneVxVy _ _ _ => 0x9000
  | .ldINnn _ => 0xA000
  | .jpV0Nnn _ => 0xB000
  | .rndVxKk _ _ => 0xC000
  | .drwVxVyN _ _ _ => 0xD000
  | .skpVx _ => 0xE09E
  | .sknpVx _ => 0xE0A1
  | .ldVxDt _ => 0xF007
  | .ldVxK _ => 0xF00A
  | .ldDtVx _ => 0xF015
  | .ldStVx _ => 0xF018
  | .addIVx _ => 0xF01E
  | .ldFVx _ => 0xF029
  | .ldBVx _ => 0xF033
  | .ldMemVx _ => 0xF055
  | .ldVxMem _ => 0xF065

/-- The (mask, match) columns of R75 for families 0 to 7, in its order. -/
def opcodeMapLow : List (Word × Word) :=
  [(0xFFFF, 0x00E0), (0xFFFF, 0x00EE), (0xF000, 0x1000), (0xF000, 0x2000), (0xF000, 0x3000), (0xF000, 0x4000),
   (0xF000, 0x5000), (0xF000, 0x6000), (0xF000, 0x7000)]

/-- The (mask, match) columns of R75 for family 8. -/
def opcodeMapFam8 : List (Word × Word) :=
  [(0xF00F, 0x8000), (0xF00F, 0x8001), (0xF00F, 0x8002), (0xF00F, 0x8003), (0xF00F, 0x8004), (0xF00F, 0x8005),
   (0xF00F, 0x8006), (0xF00F, 0x8007), (0xF00F, 0x800E)]

/-- The (mask, match) columns of R75 for families 9 to F. -/
def opcodeMapHigh : List (Word × Word) :=
  [(0xF000, 0x9000), (0xF000, 0xA000), (0xF000, 0xB000), (0xF000, 0xC000), (0xF000, 0xD000), (0xF0FF, 0xE09E),
   (0xF0FF, 0xE0A1), (0xF0FF, 0xF007), (0xF0FF, 0xF00A), (0xF0FF, 0xF015), (0xF0FF, 0xF018), (0xF0FF, 0xF01E),
   (0xF0FF, 0xF029), (0xF0FF, 0xF033), (0xF0FF, 0xF055), (0xF0FF, 0xF065)]

/-- The opcode map: the 34 (mask, match) pairs of R75. -/
def opcodeMap : List (Word × Word) := opcodeMapLow ++ opcodeMapFam8 ++ opcodeMapHigh

/-! ## The table's numbering of bits -/

/-- The instruction the decoder reads from an opcode numbered as spec/opcode_table.json numbers it: bit 0 the least
significant of the 16-bit opcode, any bit at or above `nbits` zero, the bytes laid out high byte first (R5, R45). -/
def decodeTableWord (nbits w : Nat) : Option Instr :=
  match decodeBytes (opcodeBytes (BitVec.ofNat 16 (w % 2 ^ nbits))) with
  | .ok (i, _) => some i
  | .error _ => none

end Sys2Proof
end

