-- ==== Sys2Proof/Config.lean ====
section
/-! DEFINITION. The implementation parameters of rule R4 as a record, the fixed quantities, and the free values (rules R29, R30).
The values this hardware takes for the parameters are in Sys2Proof/Machine/Params.lean. -/

namespace Sys2Proof

/-- When the timers tick (R4 `TIMER_CADENCE`, R228). -/
inductive TimerCadence where
  | perInstruction
  | externalTick
  deriving DecidableEq, Repr

/-- The parameters of R4 that the spec defaults or leaves to a model as configuration. -/
structure Config where
  /-- `STACK_DEPTH` (R15, R263; decision D9). -/
  stackDepth : Nat
  /-- `TIMER_CADENCE` (R106, R228; decision D12). -/
  timerCadence : TimerCadence
  /-- `SPEED`, the step iterations of one `cycle()` call (R108; decision D27). -/
  speed : Nat
  /-- The size of `KEY_CODES`, the host's convention that key codes are 0..15 (R29, R213; decision D17). -/
  keyCodes : Nat
  /-- `RESET_FILL`, what reset leaves wherever no other value is given (R32; decision D8). -/
  resetFill : Nat
  /-- `GLYPH_ROM`, the bytes reset puts at addresses 0..79 (R21, R22; decision D29). -/
  glyphRom : List Byte
  deriving DecidableEq, Repr

/-- `MEM_SIZE`: addresses are 0..4095 (R4, R40). -/
abbrev Config.memSize : Nat := 4096

/-- `PC_RESET` (R4, R14). -/
abbrev Config.pcReset : Word := 0x200

/-- `PROGRAM_BASE`, where the ROM source loads (R4, R48, R50). -/
abbrev Config.programBase : Nat := 0x200

/-- `GLYPH_BASE` (R4, R21). -/
abbrev Config.glyphBase : Nat := 0

/-- `GLYPH_BYTES`, the bytes of one glyph (R4, R21). -/
abbrev Config.glyphBytes : Nat := 5

/-- `GLYPH_COUNT` times `GLYPH_BYTES`: the glyph region is addresses 0..79 (R4, R21). -/
abbrev Config.glyphRegion : Nat := 80

/-- FREE VALUE (log entry 1): the byte `Rand.byte()` supplies at the n-th draw (R30, R190). Nothing constrains it. -/
opaque Config.randByte : Nat → Byte

/-- FREE VALUE (log entry 2): the answer of `Input.pressed(code)` at the n-th query (R29, R214). Nothing constrains it. -/
opaque Config.keyAnswer : Nat → Byte → Bool

end Sys2Proof
end

