-- ==== Sys2Proof/Machine/Params.lean ====
section
/-! DEFINITION. The values this hardware takes for the parameters of rule R4. -/

namespace Sys2Proof.Machine

/-- Glyphs 0 to 3 (R22). -/
def glyphs0 : List Byte :=
  [0xF0, 0x90, 0x90, 0x90, 0xF0, 0x20, 0x60, 0x20, 0x20, 0x70, 0xF0, 0x10, 0xF0, 0x80, 0xF0, 0xF0, 0x10, 0xF0, 0x10, 0xF0]

/-- Glyphs 4 to 7 (R22). -/
def glyphs4 : List Byte :=
  [0x90, 0x90, 0xF0, 0x10, 0x10, 0xF0, 0x80, 0xF0, 0x10, 0xF0, 0xF0, 0x80, 0xF0, 0x90, 0xF0, 0xF0, 0x10, 0x20, 0x40, 0x40]

/-- Glyphs 8 to B (R22). -/
def glyphs8 : List Byte :=
  [0xF0, 0x90, 0xF0, 0x90, 0xF0, 0xF0, 0x90, 0xF0, 0x10, 0xF0, 0xF0, 0x90, 0xF0, 0x90, 0x90, 0xE0, 0x90, 0xE0, 0x90, 0xE0]

/-- Glyphs C to F (R22). -/
def glyphsC : List Byte :=
  [0xF0, 0x80, 0x80, 0x80, 0xF0, 0xE0, 0x90, 0x90, 0x90, 0xE0, 0xF0, 0x80, 0xF0, 0x80, 0xF0, 0xF0, 0x80, 0xF0, 0x80, 0x80]

/-- The "value" column of R4. The glyph bytes are R22's, from general knowledge (PRESUMED, unsafe: log entry 5); the depth,
the cadence and the fill are the spec's own decisions (DESIGN CHOICE: log entries 12, 13, 4). -/
def hardware : Config where
  stackDepth := 16
  timerCadence := .perInstruction
  speed := 10
  keyCodes := 16
  resetFill := 0
  glyphRom := glyphs0 ++ glyphs4 ++ glyphs8 ++ glyphsC

end Sys2Proof.Machine
end

