-- ==== Sys2Proof/Machine/State.lean ====
section
/-! DEFINITION. The state of the machine (rules R10 to R20, R28), the reasons a step may stop, and the state after reset. -/

namespace Sys2Proof.Machine

/-- The five fatal conditions (R260). -/
inductive Cause where
  /-- Raised by a step whose opcode matches no row (R261). -/
  | unknownOpcode
  /-- Raised by fetch, DRW, LD B, LD [I] and LD Vx,[I] at an address above 4095 (R262). -/
  | outOfRange
  /-- Raised by RET with an empty stack (R264). -/
  | stackUnderflow
  /-- Raised by CALL with a full stack (R263). -/
  | stackOverflow
  /-- Raised by the host's `load` when the bytes do not fit (R265). -/
  | memoryOverflow
  deriving DecidableEq, Repr

/-- The execution state (R18). -/
inductive RunState where
  /-- Each step iteration executes one instruction. -/
  | running
  /-- Step iterations change nothing until a key press, whose code goes to register `x` (R110, R213). -/
  | waitingForKey (x : Reg)
  /-- A fatal condition happened; only reset leaves this state (R266, R268). -/
  | halted (c : Cause)
  deriving DecidableEq, Repr

/-- Memory: the cells that differ from their reset content, addresses strictly rising (log entry 23). -/
abbrev Memory := List Host.Cell

/-- The display grid, `disp[y][x]`: 32 rows of 64 cells, true for on (R28). -/
abbrev Display := Vector (Vector Bool 64) 32

/-- Everything the spec gives the machine (R10), the display grid (R28), and two counters of the model's own that number
the free values (log entries 1, 2). -/
structure State where
  /-- `mem` (R20). -/
  mem : Memory
  /-- `V[0..15]` (R11, R12). -/
  v : Vector Byte 16
  /-- `I` (R13). -/
  i : Word
  /-- `PC` (R14). -/
  pc : Word
  /-- The call stack, oldest entry first (R15). -/
  stack : List Word
  /-- `DT` (R16). -/
  dt : Byte
  /-- `ST` (R17). -/
  st : Byte
  /-- `run` (R18). -/
  run : RunState
  /-- `halt_info` (R19). -/
  haltInfo : Word
  /-- `disp` (R28). -/
  disp : Display
  /-- The model's own: random bytes drawn so far, a reset of the host included (log entry 1). -/
  randDraws : Nat
  /-- The model's own: key queries made so far, a reset of the host included (log entry 2). -/
  keyQueries : Nat
  deriving DecidableEq, Repr

/-- The reasons a step could end in the outcome `fault`: there are none. Every fatal condition of this machine is an entry
into the state `Halted` that the spec describes, hence a next state (R266; log entry 3). Safe: nothing is left out. -/
inductive Fault : Type
  deriving DecidableEq, Repr

/-- The reasons a step could end in the outcome `refused`. -/
inductive Refusal where
  /-- An instruction without a meaning. No arm of `exec` raises it: every instruction has its meaning. Safe. -/
  | notModelled (mnemonic : String)
  deriving DecidableEq, Repr

/-- The machine right after reset (R32, R290): PC is 0x200 and the glyph region holds the glyphs (an unlisted address reads
as its reset content); every other value is the spec's own decision D8 or D25 (DESIGN CHOICE, unsafe: log entry 4). -/
def State.reset : State where
  mem := []
  v := Vector.replicate 16 (BitVec.ofNat 8 hardware.resetFill)
  i := BitVec.ofNat 16 hardware.resetFill
  pc := Config.pcReset
  stack := []
  dt := BitVec.ofNat 8 hardware.resetFill
  st := BitVec.ofNat 8 hardware.resetFill
  run := .running
  haltInfo := BitVec.ofNat 16 hardware.resetFill
  disp := Vector.replicate 32 (Vector.replicate 64 false)
  randDraws := 0
  keyQueries := 0

end Sys2Proof.Machine
end

