-- ==== Sys2Proof/Machine/Ops.lean ====
section
/-! DEFINITION. The named operations over registers, memory, stack, display, timers and free values, and the entry into
`Halted`, which all fatal conditions share. -/

namespace Sys2Proof.Machine

/-! ## Registers (R7, R11, R13, R14) -/

/-- `V[x]` as a value (R7). No register is hard-wired (R11). -/
def State.readV (s : State) (x : Reg) : Byte := s.v.get x

/-- `V[x] <- b` (R7). -/
def State.writeV (s : State) (x : Reg) (b : Byte) : State := { s with v := s.v.set x b }

/-- `I <- w` (R7, R13). -/
def State.setI (s : State) (w : Word) : State := { s with i := w }

/-- `pc <- w` (R7, R14). -/
def State.setPc (s : State) (w : Word) : State := { s with pc := w }

/-- `DT <- b` (R16). -/
def State.setDt (s : State) (b : Byte) : State := { s with dt := b }

/-- `ST <- b` (R17). -/
def State.setSt (s : State) (b : Byte) : State := { s with st := b }

/-- `run <- r` (R18). -/
def State.setRun (s : State) (r : RunState) : State := { s with run := r }

/-- The fetch advance, `PC <- (PC + 2) mod 65536` (R102). -/
def State.advancePc (s : State) : State := s.setPc (s.pc + 2)

/-- A conditional skip: PC, already advanced, moves on by an extra 2 when the condition holds (R123). -/
def State.skipIf (s : State) (c : Bool) : State := s.setPc (if c then s.pc + 2 else s.pc)

/-! ## Entry into `Halted`, and return -/

/-- The number of a cause (R260). -/
def Cause.code : Cause → Nat
  | .unknownOpcode => 1
  | .outOfRange => 2
  | .stackUnderflow => 3
  | .stackOverflow => 4
  | .memoryOverflow => 5

/-- `raise <Cause>(info)`: "`run <- Halted(Cause)`; `halt_info <- info` as 16 bits; nothing else" (R266). There is no return
from it: only reset leaves `Halted` (R268; `State.applyReset`). -/
def State.raise (s : State) (c : Cause) (info : Word) : State := { s with run := .halted c, haltInfo := info }

/-- The host's `reset`, the one way out of `Halted`: every element of R32 at its reset value, whatever it held (R268, R290).
DESIGN CHOICE (log entries 1, 2): the model's own two counters are no element of R32 and go on counting, so that the random
bytes and key answers after a reset are as free as those before it (R29, R30, R214). -/
def State.applyReset (s : State) : State := { State.reset with randDraws := s.randDraws, keyQueries := s.keyQueries }

/-! ## Memory (R40 to R43, R50) -/

/-- What an address holds after reset: the glyph bytes at 0..79 and the fill elsewhere (R21, R32). -/
def Memory.unlisted (a : Nat) : Byte :=
  if a < Config.glyphRegion then hardware.glyphRom.getD a 0 else BitVec.ofNat 8 hardware.resetFill

/-- The byte memory holds at an address: the listed cell, else the address's reset content (R41). -/
def Memory.read : Memory → Nat → Byte
  | [], a => Memory.unlisted a
  | (b, w) :: rest, a => if b = a then w else Memory.read rest a

/-- Removes the cell of an address. -/
def Memory.erase : Memory → Nat → Memory
  | [], _ => []
  | (b, w) :: rest, a => if b = a then rest else (b, w) :: Memory.erase rest a

/-- Puts a cell at its place in the rising order, over the one that was there. -/
def Memory.insert : Memory → Nat → Byte → Memory
  | [], a, x => [(a, x)]
  | (b, w) :: rest, a, x =>
    if a < b then (a, x) :: (b, w) :: rest
    else if a = b then (a, x) :: rest
    else (b, w) :: Memory.insert rest a x

/-- `mem[a] <- x`, no other byte changed, in the canonical form (R43; log entry 23). -/
def Memory.write (m : Memory) (a : Nat) (x : Byte) : Memory :=
  if x = Memory.unlisted a then Memory.erase m a else Memory.insert m a x

/-- Addresses strictly rising from `lo`, below 4096, and no cell equal to its reset content. -/
def Memory.wfFrom : Nat → Memory → Bool
  | _, [] => true
  | lo, (a, x) :: rest => lo ≤ a && a < Config.memSize && x != Memory.unlisted a && Memory.wfFrom (a + 1) rest

/-- The canonical form of a memory (log entry 23). -/
def Memory.wf (m : Memory) : Bool := Memory.wfFrom 0 m

/-- `count` bytes from `base` upwards (R57). -/
def Memory.readBlock (m : Memory) (base : Nat) : Nat → List Byte
  | 0 => []
  | count + 1 => m.read base :: Memory.readBlock m (base + 1) count

/-- Writes bytes from `base` upwards (R50, R57). -/
def Memory.writeBlock (m : Memory) (base : Nat) : List Byte → Memory
  | [] => m
  | x :: rest => Memory.writeBlock (m.write base x) (base + 1) rest

/-- `MemRead(a, 1)`: a byte, or nothing when the address does not exist (R8, R41, R42). -/
def State.memRead (s : State) (a : Nat) : Option Byte := if a < Config.memSize then some (s.mem.read a) else none

/-- The check every access makes before any effect: of `count` bytes at `base`, the lowest address above 4095, if there is
one (R9(c), R42, R196, R241 to R243). -/
def rangeFault (base count : Nat) : Option Nat :=
  if count ≠ 0 ∧ Config.memSize < base + count then some (if Config.memSize ≤ base then base else Config.memSize) else none

/-- Raises OutOfRange at the lowest offending address of the `count` bytes at I, or else does `body` (R42, R262, R267). -/
def State.guardRange (s : State) (count : Nat) (body : State) : State :=
  match rangeFault s.i.toNat count with
  | some a => s.raise .outOfRange (BitVec.ofNat 16 a)
  | none => body

/-- Stores bytes at I and up (R43, R57). -/
def State.storeAtI (s : State) (bytes : List Byte) : State := { s with mem := s.mem.writeBlock s.i.toNat bytes }

/-- `V[k] <- mem[I + k]` for k = 0..x; the registers above x keep their values (R243). -/
def State.loadRegsAtI (s : State) (x : Reg) : State :=
  { s with v := Vector.ofFn fun k : Fin 16 => if k ≤ x then s.mem.read (s.i.toNat + k.val) else s.v.get k }

/-! ## Fetch (R44, R101) -/

/-- The opcode at PC, high byte first (R44, R45). -/
def State.fetchWord (s : State) : Word := opcodeOf (s.mem.read s.pc.toNat) (s.mem.read (s.pc.toNat + 1))

/-- The lower of PC and PC + 1 that is above 4095, if one is (R101). -/
def State.fetchFault (s : State) : Option Nat := rangeFault s.pc.toNat 2

/-! ## Call stack (R15, R121, R122) -/

/-- `push(w)`, or StackOverflow with the opcode as its word when the stack is full, and then nothing is pushed and PC stays
(R121, R263). -/
def State.pushAndJump (s : State) (op target : Word) : State :=
  if s.stack.length < hardware.stackDepth then { s with stack := s.stack ++ [s.pc], pc := target }
  else s.raise .stackOverflow op

/-- `pc <- pop()`, or StackUnderflow with the opcode as its word when the stack is empty (R122, R264). -/
def State.popToPc (s : State) (op : Word) : State :=
  match s.stack.getLast? with
  | some w => { s with stack := s.stack.dropLast, pc := w }
  | none => s.raise .stackUnderflow op

/-! ## Display (R25, R26, R195 to R197) -/

/-- A cell of the grid, `disp[y][x]`. -/
def Display.cell (d : Display) (x : Fin 64) (y : Fin 32) : Bool := (d.get y).get x

/-- `Display.toggle(x, y)`: the grid afterwards, and whether the cell went from on to off (R25). -/
def Display.toggle (d : Display) (x : Fin 64) (y : Fin 32) : Display × Bool :=
  (d.set y ((d.get y).set x (!d.cell x y)), d.cell x y)

/-- Toggles cells one after the other; whether any went from on to off (R196). -/
def Display.toggleAll : List (Fin 64 × Fin 32) → Display → Display × Bool
  | [], d => (d, false)
  | (x, y) :: rest, d =>
    ((Display.toggleAll rest (d.toggle x y).1).1, (d.toggle x y).2 || (Display.toggleAll rest (d.toggle x y).1).2)

/-- The grid with all cells off (R26). -/
def Display.cleared : Display := Vector.replicate 32 (Vector.replicate 64 false)

/-- The cells of one sprite row drawn from column `x0` in row `y`: column c for each set bit 7 - c, wrapped on its own
(R196, R197). -/
def rowCells (x0 y : Nat) (b : Byte) : List (Fin 64 × Fin 32) :=
  (List.range 8).filterMap fun c => if b.getLsbD (7 - c) then some (Fin.ofNat 64 (x0 + c), Fin.ofNat 32 y) else none

/-- The cells of a sprite drawn with its top left corner at (x0, y0), row after row (R196). -/
def spriteCells (x0 y0 : Nat) : List Byte → List (Fin 64 × Fin 32)
  | [] => []
  | b :: rest => rowCells x0 y0 b ++ spriteCells x0 (y0 + 1) rest

/-- `Display.clear()` (R26, R198). -/
def State.clearDisp (s : State) : State := { s with disp := Display.cleared }

/-- Toggles cells; nothing but the grid changes (R196). -/
def State.toggleCells (s : State) (cells : List (Fin 64 × Fin 32)) : State :=
  { s with disp := (Display.toggleAll cells s.disp).1 }

/-- Whether toggling these cells turns one off (R196). -/
def State.collides (s : State) (cells : List (Fin 64 × Fin 32)) : Bool := (Display.toggleAll cells s.disp).2

/-! ## Free values (log entries 1, 2) -/

/-- The byte the next RND draws (R30). -/
def State.nextRandByte (s : State) : Byte := Config.randByte s.randDraws

/-- One random byte has been drawn (R190). -/
def State.countRandDraw (s : State) : State := { s with randDraws := s.randDraws + 1 }

/-- The answer of the next `Input.pressed(code)` (R29). -/
def State.nextKeyAnswer (s : State) (code : Byte) : Bool := Config.keyAnswer s.keyQueries code

/-- One key query has been made (R210, R211). -/
def State.countKeyQuery (s : State) : State := { s with keyQueries := s.keyQueries + 1 }

/-! ## Timers (R106, R228, R229) -/

/-- Decrement if positive, floor at 0 (R228). -/
def countDown (b : Byte) : Byte := if b = 0 then 0 else b - 1

/-- `tick()` (R228). -/
def State.tick (s : State) : State := { s with dt := countDown s.dt, st := countDown s.st }

/-- The end of a step that executed an instruction: under `per_instruction` the timers tick if the core is still Running
(R106). Under `external_tick` the step does not tick (R228). -/
def State.afterInstruction (s : State) : State :=
  match hardware.timerCadence with
  | .perInstruction => if s.run = .running then s.tick else s
  | .externalTick => s

/-- `sound_on`, the level to the Audio collaborator (R229). -/
def State.soundOn (s : State) : Bool := s.st != 0

end Sys2Proof.Machine
end

