-- ==== Sys2Proof/Machine/Operands.lean ====
section
/-! DEFINITION. The operand forms of rule R73: zero-extended immediates and registers, the block V0..Vx, the glyph address
and the decimal digits. No operand is sign-extended, scaled or shifted. -/

namespace Sys2Proof.Machine

/-- `zext_16(nnn)` (R73). -/
def zextNnn (nnn : BitVec 12) : Word := nnn.setWidth 16

/-- `zext_16(V[x])` (R181, R182, R240). -/
def zextByte (b : Byte) : Word := b.setWidth 16

/-- The target of `JP V0, nnn`: nnn plus V0, unmasked (R182). -/
def State.indexedTarget (s : State) (nnn : BitVec 12) : Word := zextNnn nnn + zextByte (s.readV Reg.v0)

/-- The address of the glyph of a digit, the whole 8-bit value times 5 (R21, R240). -/
def glyphAddress (digit : Byte) : Word := zextByte digit * BitVec.ofNat 16 Config.glyphBytes

/-- The registers V0..Vx in order, x + 1 of them (R242). -/
def State.regsUpTo (s : State) (x : Reg) : List Byte := s.v.toList.take (x.val + 1)

/-- Hundreds, tens and ones of a byte, one digit a byte (R241). -/
def bcdDigits (b : Byte) : List Byte := [b / 100, b / 10 % 10, b % 10]

/-- The sprite DRW reads: n bytes at I (R196). -/
def State.spriteRows (s : State) (n : BitVec 4) : List Byte := s.mem.readBlock s.i.toNat n.toNat

/-- The cells DRW toggles: the set bits of the sprite at I, its top left corner at (V[x], V[y]) (R196). -/
def State.drawnCells (s : State) (x y : Reg) (n : BitVec 4) : List (Fin 64 × Fin 32) :=
  spriteCells (s.readV x).toNat (s.readV y).toNat (s.spriteRows n)

end Sys2Proof.Machine
end

