-- ==== Sys2Proof/Machine/Flags.lean ====
section
/-! DEFINITION. The flag computations: VF is the machine's only flag and receives exactly 0x00 or 0x01 (rules R12, R160). -/

namespace Sys2Proof.Machine

/-- A flag as the byte VF receives (R160(b)). -/
def flagByte (c : Bool) : Byte := if c then 1 else 0

/-- ADD: the unclamped sum exceeds 255 (R161). -/
def addFlag (a b : Byte) : Bool := decide (255 < a.toNat + b.toNat)

/-- SUB, and SUBN with its operands exchanged: the minuend is strictly greater (R162, R164). -/
def subFlag (a b : Byte) : Bool := decide (b.toNat < a.toNat)

/-- SHR: the pre-shift least significant bit (R163). -/
def shrFlag (a : Byte) : Bool := a.getLsbD 0

/-- SHL: the pre-shift most significant bit (R165). -/
def shlFlag (a : Byte) : Bool := a.getLsbD 7

/-- `V[15] <- 1 or 0` (R12). -/
def State.writeFlag (s : State) (c : Bool) : State := s.writeV Reg.vF (flagByte c)

/-- The result to V[x], then the flag to VF, so that for x = 15 the flag remains (R160(c); log entry 8). -/
def State.writeResultAndFlag (s : State) (x : Reg) (r : Byte) (c : Bool) : State := (s.writeV x r).writeFlag c

end Sys2Proof.Machine
end

