-- ==== Sys2Proof/Machine/Addressing.lean ====
section
/-! DEFINITION. Addressing: LD I, ADD I, JP V0 (rules R180 to R182). I and PC hold 16 bits, unmasked. -/

namespace Sys2Proof.Machine

/-- `LD I, nnn` (R180). -/
def execLdINnn (nnn : BitVec 12) (s : State) : Host.Outcome State Fault Refusal := .next (s.setI (zextNnn nnn))

/-- `ADD I, Vx`, mod 65536, no flag (R181). -/
def execAddIVx (x : Reg) (s : State) : Host.Outcome State Fault Refusal := .next (s.setI (s.i + zextByte (s.readV x)))

/-- `JP V0, nnn` (R182). -/
def execJpV0Nnn (nnn : BitVec 12) (s : State) : Host.Outcome State Fault Refusal := .next (s.setPc (s.indexedTarget nnn))

end Sys2Proof.Machine
end

