-- ==== Sys2Proof/Machine/ControlFlow.lean ====
section
/-! DEFINITION. Control flow: JP, CALL, RET, SE, SNE (rules R120 to R126). PC has already been advanced by 2 (R102). -/

namespace Sys2Proof.Machine

/-- `JP nnn` (R120). -/
def execJp (nnn : BitVec 12) (s : State) : Host.Outcome State Fault Refusal := .next (s.setPc (zextNnn nnn))

/-- `CALL nnn` (R121): PC, the address after the CALL, is pushed. -/
def execCall (nnn : BitVec 12) (s : State) : Host.Outcome State Fault Refusal :=
  .next (s.pushAndJump (encode (.call nnn)) (zextNnn nnn))

/-- `RET` (R122). -/
def execRet (s : State) : Host.Outcome State Fault Refusal := .next (s.popToPc (encode .ret))

/-- `SE Vx, kk` (R123). -/
def execSeVxKk (x : Reg) (kk : Byte) (s : State) : Host.Outcome State Fault Refusal := .next (s.skipIf (s.readV x == kk))

/-- `SNE Vx, kk` (R124). -/
def execSneVxKk (x : Reg) (kk : Byte) (s : State) : Host.Outcome State Fault Refusal := .next (s.skipIf (s.readV x != kk))

/-- `SE Vx, Vy` (R125). -/
def execSeVxVy (x y : Reg) (s : State) : Host.Outcome State Fault Refusal := .next (s.skipIf (s.readV x == s.readV y))

/-- `SNE Vx, Vy` (R126). -/
def execSneVxVy (x y : Reg) (s : State) : Host.Outcome State Fault Refusal := .next (s.skipIf (s.readV x != s.readV y))

end Sys2Proof.Machine
end

