-- ==== Sys2Proof/Machine/Drawing.lean ====
section
/-! DEFINITION. Drawing: DRW and CLS (rules R195 to R199). -/

namespace Sys2Proof.Machine

/-- `DRW Vx, Vy, n`: coordinates, I and the sprite are sampled first, the range is checked before any toggle, and VF is
written once, last (R196). -/
def execDrwVxVyN (x y : Reg) (n : BitVec 4) (s : State) : Host.Outcome State Fault Refusal :=
  .next (s.guardRange n.toNat ((s.toggleCells (s.drawnCells x y n)).writeFlag (s.collides (s.drawnCells x y n))))

/-- `CLS` (R198). -/
def execCls (s : State) : Host.Outcome State Fault Refusal := .next s.clearDisp

end Sys2Proof.Machine
end

