-- ==== Sys2Proof/Machine/FlaggedArith.lean ====
section
/-! DEFINITION. Flagged arithmetic: ADD, SUB, SHR, SUBN, SHL (rules R160 to R165). Operands are the values before the
instruction; the flag is written last. -/

namespace Sys2Proof.Machine

/-- `ADD Vx, Vy` (R161). -/
def execAddVxVy (x y : Reg) (s : State) : Host.Outcome State Fault Refusal :=
  .next (s.writeResultAndFlag x (s.readV x + s.readV y) (addFlag (s.readV x) (s.readV y)))

/-- `SUB Vx, Vy` (R162). -/
def execSubVxVy (x y : Reg) (s : State) : Host.Outcome State Fault Refusal :=
  .next (s.writeResultAndFlag x (s.readV x - s.readV y) (subFlag (s.readV x) (s.readV y)))

/-- `SHR Vx`, in place (R163). -/
def execShrVx (x : Reg) (s : State) : Host.Outcome State Fault Refusal :=
  .next (s.writeResultAndFlag x (s.readV x >>> 1) (shrFlag (s.readV x)))

/-- `SUBN Vx, Vy`: the stored result is DEDUCED from "reverse subtract" (R164; log entry 28). -/
def execSubnVxVy (x y : Reg) (s : State) : Host.Outcome State Fault Refusal :=
  .next (s.writeResultAndFlag x (s.readV y - s.readV x) (subFlag (s.readV y) (s.readV x)))

/-- `SHL Vx`, in place (R165). -/
def execShlVx (x : Reg) (s : State) : Host.Outcome State Fault Refusal :=
  .next (s.writeResultAndFlag x (s.readV x <<< 1) (shlFlag (s.readV x)))

end Sys2Proof.Machine
end

