-- ==== Sys2Proof/Machine/ImmediateLogic.lean ====
section
/-! DEFINITION. Immediate load and add, register copy, logic (rules R140 to R145). None writes VF as a flag. -/

namespace Sys2Proof.Machine

/-- `LD Vx, kk` (R140). -/
def execLdVxKk (x : Reg) (kk : Byte) (s : State) : Host.Outcome State Fault Refusal := .next (s.writeV x kk)

/-- `ADD Vx, kk`, wrapping (R141). -/
def execAddVxKk (x : Reg) (kk : Byte) (s : State) : Host.Outcome State Fault Refusal := .next (s.writeV x (s.readV x + kk))

/-- `LD Vx, Vy` (R142). -/
def execLdVxVy (x y : Reg) (s : State) : Host.Outcome State Fault Refusal := .next (s.writeV x (s.readV y))

/-- `OR Vx, Vy` (R143). -/
def execOrVxVy (x y : Reg) (s : State) : Host.Outcome State Fault Refusal := .next (s.writeV x (s.readV x ||| s.readV y))

/-- `AND Vx, Vy` (R144). -/
def execAndVxVy (x y : Reg) (s : State) : Host.Outcome State Fault Refusal := .next (s.writeV x (s.readV x &&& s.readV y))

/-- `XOR Vx, Vy` (R145). -/
def execXorVxVy (x y : Reg) (s : State) : Host.Outcome State Fault Refusal := .next (s.writeV x (s.readV x ^^^ s.readV y))

end Sys2Proof.Machine
end

