-- ==== Sys2Proof/Machine/Input.lean ====
section
/-! DEFINITION. Input: SKP, SKNP, LD Vx, K (rules R210 to R212). The key-press event is in Transactions.lean. -/

namespace Sys2Proof.Machine

/-- `SKP Vx`: the whole 8-bit value of V[x] is the code asked about; the answer is a free value (R210; log entry 2). -/
def execSkpVx (x : Reg) (s : State) : Host.Outcome State Fault Refusal :=
  .next (s.countKeyQuery.skipIf (s.nextKeyAnswer (s.readV x)))

/-- `SKNP Vx` (R211; log entry 2). -/
def execSknpVx (x : Reg) (s : State) : Host.Outcome State Fault Refusal :=
  .next (s.countKeyQuery.skipIf (!s.nextKeyAnswer (s.readV x)))

/-- `LD Vx, K`: the core waits; V[x] is written by the key-press event (R212, R213). -/
def execLdVxK (x : Reg) (s : State) : Host.Outcome State Fault Refusal := .next (s.setRun (.waitingForKey x))

end Sys2Proof.Machine
end

