-- ==== Sys2Proof/Machine/MemoryBcd.lean ====
section
/-! DEFINITION. Memory and BCD: LD F, LD B, LD [I], LD Vx, [I] (rules R240 to R243). I is left unchanged by the last three. -/

namespace Sys2Proof.Machine

/-- `LD F, Vx` (R240). -/
def execLdFVx (x : Reg) (s : State) : Host.Outcome State Fault Refusal := .next (s.setI (glyphAddress (s.readV x)))

/-- `LD B, Vx` (R241). -/
def execLdBVx (x : Reg) (s : State) : Host.Outcome State Fault Refusal :=
  .next (s.guardRange 3 (s.storeAtI (bcdDigits (s.readV x))))

/-- `LD [I], Vx` (R242). -/
def execLdMemVx (x : Reg) (s : State) : Host.Outcome State Fault Refusal :=
  .next (s.guardRange (x.val + 1) (s.storeAtI (s.regsUpTo x)))

/-- `LD Vx, [I]` (R243). -/
def execLdVxMem (x : Reg) (s : State) : Host.Outcome State Fault Refusal :=
  .next (s.guardRange (x.val + 1) (s.loadRegsAtI x))

end Sys2Proof.Machine
end

