-- ==== Sys2Proof/Machine/Random.lean ====
section
/-! DEFINITION. Randomness: RND (rule R190). -/

namespace Sys2Proof.Machine

/-- The effect of RND for a drawn byte `r`: `V[x] <- r & kk`, one byte consumed (R190). -/
def State.rndWith (s : State) (r : Byte) (x : Reg) (kk : Byte) : State := (s.writeV x (r &&& kk)).countRandDraw

/-- `RND Vx, kk`: the drawn byte is a free value (R30, R190; log entry 1). -/
def execRndVxKk (x : Reg) (kk : Byte) (s : State) : Host.Outcome State Fault Refusal := .next (s.rndWith s.nextRandByte x kk)

end Sys2Proof.Machine
end

