-- ==== Sys2Proof/Machine/Timers.lean ====
section
/-! DEFINITION. Timers: LD Vx, DT; LD DT, Vx; LD ST, Vx (rules R225 to R227). The tick of the same step follows (R106). -/

namespace Sys2Proof.Machine

/-- `LD Vx, DT` (R225). -/
def execLdVxDt (x : Reg) (s : State) : Host.Outcome State Fault Refusal := .next (s.writeV x s.dt)

/-- `LD DT, Vx` (R226). -/
def execLdDtVx (x : Reg) (s : State) : Host.Outcome State Fault Refusal := .next (s.setDt (s.readV x))

/-- `LD ST, Vx` (R227). -/
def execLdStVx (x : Reg) (s : State) : Host.Outcome State Fault Refusal := .next (s.setSt (s.readV x))

end Sys2Proof.Machine
end

