-- ==== Sys2Proof/Machine/Step.lean ====
section
/-! DEFINITION. The step iteration (rule R100), and placing an instruction where the next step fetches. -/

namespace Sys2Proof.Machine

/-- What follows the execution of an instruction in the same step (R106). -/
def finish : Host.Outcome State Fault Refusal → Host.Outcome State Fault Refusal
  | .next t => .next t.afterInstruction
  | .fault f => .fault f
  | .refused r => .refused r

/-- Decode and execute, PC already advanced (R103 to R106). -/
def decodeAndExecute (op : Word) (s : State) : Host.Outcome State Fault Refusal :=
  match decode op with
  | some i => finish (exec i s)
  | none => .next (s.raise .unknownOpcode op)

/-- One step iteration: fetch, advance, decode, execute, tick; nothing when the core is not Running (R100, R101, R110). -/
def step (s : State) : Host.Outcome State Fault Refusal :=
  match s.run with
  | .running =>
    match s.fetchFault with
    | some a => .next (s.raise .outOfRange (BitVec.ofNat 16 a))
    | none => decodeAndExecute s.fetchWord s.advancePc
  | .waitingForKey _ => .next s
  | .halted _ => .next s

/-- The state with the opcode numbered `w` (bits at or above `nbits` zero) stored where the next step fetches: at PC, or at
0x200 with PC moved there when nothing can be fetched at PC, and the core Running (log entry 25). -/
def State.withFetchWord (s : State) (nbits w : Nat) : State :=
  let place : Word := if s.pc.toNat + 1 < Config.memSize then s.pc else Config.pcReset
  { s with
    run := .running
    pc := place
    mem := s.mem.writeBlock place.toNat (opcodeBytes (BitVec.ofNat 16 (w % 2 ^ nbits))) }

end Sys2Proof.Machine
end

