-- ==== Sys2Proof/Machine/Transactions.lean ====
section
/-! DEFINITION. The host's transactions and the core's outputs (rules R31, R50, R51, R108, R213, R265, R290). Each is atomic
and happens between step iterations only (R300; log entries 20, 21). -/

namespace Sys2Proof.Machine

/-- `load(bytes, base)`: copies the bytes in, or, when they do not fit, writes nothing and halts the core with
MemoryOverflow; an already halted core keeps its first cause (R50, R51, R265, R268). -/
def State.load (s : State) (bytes : List Byte) (base : Nat) : State :=
  if base + bytes.length ≤ Config.memSize then { s with mem := s.mem.writeBlock base bytes }
  else
    match s.run with
    | .running => s.raise .memoryOverflow (BitVec.ofNat 16 base)
    | .waitingForKey _ => s.raise .memoryOverflow (BitVec.ofNat 16 base)
    | .halted _ => s

/-- `key_press(code)`: resolves WaitingForKey, else nothing (R213). -/
def State.keyPress (s : State) (code : Nat) : State :=
  match s.run with
  | .waitingForKey x => (s.writeV x (BitVec.ofNat 8 code)).setRun .running
  | .running => s
  | .halted _ => s

/-- Up to `count` step iterations in a row (R108, R109). -/
def runSteps : Nat → State → Host.Outcome State Fault Refusal
  | 0, s => .next s
  | count + 1, s =>
    match step s with
    | .next t => runSteps count t
    | .fault f => .fault f
    | .refused r => .refused r

/-- `cycle()`: `SPEED` step iterations (R108). -/
def cycle (s : State) : Host.Outcome State Fault Refusal := runSteps hardware.speed s

/-- The transactions of the host (R31). -/
inductive HostEvent where
  | reset
  | load (bytes : List Byte) (base : Nat)
  | step
  | cycle
  | keyPress (code : Nat)
  deriving DecidableEq, Repr

/-- What a transaction does (R31). -/
def transact (e : HostEvent) (s : State) : Host.Outcome State Fault Refusal :=
  match e with
  | .reset => .next s.applyReset
  | .load bytes base => .next (s.load bytes base)
  | .step => step s
  | .cycle => cycle s
  | .keyPress code => .next (s.keyPress code)

/-- The host's convention about a key press: its code is in `KEY_CODES` (R4, R213). The core enforces no range. -/
def conventionalKey (code : Nat) : Bool := decide (code < hardware.keyCodes)

/-- The outputs `halted`, cause and `halt_info` (R19, R31, R266). -/
def State.haltOutput (s : State) : Option (Cause × Word) :=
  match s.run with
  | .halted c => some (c, s.haltInfo)
  | .running => none
  | .waitingForKey _ => none

end Sys2Proof.Machine
end

