-- ==== Sys2Proof/Safety.lean ====
section
/-! DEFINITION. The terms claims are stated in: what a step leaves unchanged, the invariant of the machine, reachable
states, and the encoding formats of rule R72. -/

namespace Sys2Proof.Machine

/-! ## Frames -/

/-- Which elements of state a frame statement lets change; those not named stay as they were. -/
structure Changes where
  /-- The general registers that may change. -/
  regs : Reg → Bool := fun _ => false
  /-- I may change. -/
  i : Bool := false
  /-- PC may change. -/
  pc : Bool := false
  /-- The call stack may change. -/
  stack : Bool := false
  /-- DT may change. -/
  dt : Bool := false
  /-- ST may change. -/
  st : Bool := false
  /-- `run` and `halt_info` may change. -/
  run : Bool := false
  /-- Memory may change. -/
  mem : Bool := false
  /-- The display grid may change. -/
  disp : Bool := false
  /-- The number of random bytes drawn may change. -/
  randDraws : Bool := false
  /-- The number of key queries made may change. -/
  keyQueries : Bool := false

/-- From `s` to `t` nothing changes but what `c` names: every other register, every byte of memory, every display cell. -/
structure SameExcept (c : Changes) (s t : State) : Prop where
  regs : ∀ r, c.regs r = false → t.readV r = s.readV r
  i : c.i = false → t.i = s.i
  pc : c.pc = false → t.pc = s.pc
  stack : c.stack = false → t.stack = s.stack
  dt : c.dt = false → t.dt = s.dt
  st : c.st = false → t.st = s.st
  run : c.run = false → t.run = s.run ∧ t.haltInfo = s.haltInfo
  mem : c.mem = false → ∀ a, t.mem.read a = s.mem.read a
  disp : c.disp = false → ∀ x y, t.disp.cell x y = s.disp.cell x y
  randDraws : c.randDraws = false → t.randDraws = s.randDraws
  keyQueries : c.keyQueries = false → t.keyQueries = s.keyQueries

/-- The state a raising step leaves: only `run` and `halt_info` differ (R266). -/
def HaltsWith (c : Cause) (info : Nat) (s t : State) : Prop := t = { s with run := .halted c, haltInfo := BitVec.ofNat 16 info }

/-! ## The invariant -/

/-- `halt_info` agrees with `run`: zero before any fatal condition, and afterwards the word R260 says its cause records,
with the stack as the cause requires (R19, R260). -/
def HaltRecord (s : State) : Prop :=
  match s.run with
  | .running => s.haltInfo = 0
  | .waitingForKey _ => s.haltInfo = 0
  | .halted .unknownOpcode => decode s.haltInfo = none
  | .halted .outOfRange => Config.memSize ≤ s.haltInfo.toNat
  | .halted .stackUnderflow => s.haltInfo = 0x00EE ∧ s.stack = []
  | .halted .stackOverflow => opFam s.haltInfo = 2 ∧ s.stack.length = hardware.stackDepth
  | .halted .memoryOverflow => True

/-- The invariant of the machine: memory is in its canonical form, the stack holds at most `STACK_DEPTH` entries, each at
most 4096 (R122), PC is at most 0x10FE (R182), and `halt_info` agrees with `run`. -/
structure State.Inv (s : State) : Prop where
  memWf : s.mem.wf = true
  stackBound : s.stack.length ≤ hardware.stackDepth
  stackEntries : ∀ w ∈ s.stack, w.toNat ≤ Config.memSize
  pcBound : s.pc.toNat ≤ 0x10FE
  haltRecord : HaltRecord s

/-- The states that transactions of the host lead to, from a reset at any time (R31, R295). -/
inductive Reachable : State → Prop where
  | reset (s : State) : Reachable s.applyReset
  | transact {s t : State} (e : HostEvent) (hs : Reachable s) (h : transact e s = .next t) : Reachable t

/-- A run is safe while the core has not met a fatal condition: "`Halted` is a fault: a state that is never final and never
left" (R266). -/
def State.notHalted (s : State) : Prop := ∀ c, s.run ≠ .halted c

/-! ## Formats (R72) -/

/-- The opcode of `i` has format NNN. -/
def FormatNnn (i : Instr) (fam : BitVec 4) (nnn : BitVec 12) : Prop := opFam (encode i) = fam ∧ opNnn (encode i) = nnn

/-- The opcode of `i` has format XKK, or format X with `kk` fixed. -/
def FormatXKk (i : Instr) (fam : BitVec 4) (x : Reg) (kk : Byte) : Prop :=
  opFam (encode i) = fam ∧ opX (encode i) = x ∧ opKk (encode i) = kk

/-- The opcode of `i` has format XYN, or format XY with `n` its low nibble. -/
def FormatXYN (i : Instr) (fam : BitVec 4) (x y : Reg) (n : BitVec 4) : Prop :=
  opFam (encode i) = fam ∧ opX (encode i) = x ∧ opY (encode i) = y ∧ opN (encode i) = n

/-! ## Drawing -/

/-- DRW Vx, Vy, n in state `s` has a set sprite bit at the cell (cx, cy): bit 7 - c of row r, at column (V[x] + c) mod 64
and row (V[y] + r) mod 32 (R196, R197). -/
def Drawn (s : State) (x y : Reg) (n : BitVec 4) (cx : Fin 64) (cy : Fin 32) : Prop :=
  ∃ r c : Nat, r < n.toNat ∧ c < 8 ∧ (s.mem.read (s.i.toNat + r)).getLsbD (7 - c) = true ∧
    cx.val = ((s.readV x).toNat + c) % 64 ∧ cy.val = ((s.readV y).toNat + r) % 32

end Sys2Proof.Machine
end

