-- ==== Sys2Proof/Certificates/Slice0/Obligations.lean ====
section
/-! DEFINITION. The statements for the provers, one for each entry of OBLIGATIONS.json. -/

open Sys2Proof Sys2Proof.Machine

/-! ## Encoding -/

/-- Every instruction's opcode decodes to it, whatever its operands (R71, R75). Encodings: log entry 6 (PRESUMED). -/
def Obligations.DecodeOfEncodeIsIdentity : Prop := ∀ i : Instr, decode (encode i) = some i

/-- An opcode that decodes is the encoding of what it decodes to, the ignored nibbles included (R75, R77). Encodings:
log entry 6 (PRESUMED). -/
def Obligations.EncodeOfDecodeIsIdentity : Prop := ∀ (op : Word) (i : Instr), decode op = some i → encode i = op

/-- R80: the rows of R75 are pairwise disjoint, and every opcode selects exactly one instruction, that of the row it
matches, or is unknown and matches no row. The opcode map is general knowledge (log entry 6) and R80 the spec's own
inference. -/
def Obligations.OpcodeMapSelectsOneRowOrNone : Prop :=
  opcodeMap.length = 34 ∧
  opcodeMap.Pairwise (fun r q => ∀ op : Word, ¬ (op &&& r.1 = r.2 ∧ op &&& q.1 = q.2)) ∧
  (∀ (op : Word) (i : Instr), decode op = some i → (rowMask i, rowMatch i) ∈ opcodeMap ∧ op &&& rowMask i = rowMatch i) ∧
  (∀ op : Word, decode op = none ↔ ∀ r ∈ opcodeMap, op &&& r.1 ≠ r.2)

/-- R78's table: the unknown opcodes are those of families 0, 8, E and F it lists, and no others. Rests on decision D3
(log entry 6). -/
def Obligations.UnknownOpcodesAreThoseListed : Prop :=
  ∀ op : Word, decode op = none ↔
    (op.toNat / 4096 = 0x0 ∧ op ≠ 0x00E0 ∧ op ≠ 0x00EE) ∨
    (op.toNat / 4096 = 0x8 ∧ op.toNat % 16 ∈ [0x8, 0x9, 0xA, 0xB, 0xC, 0xD, 0xF]) ∨
    (op.toNat / 4096 = 0xE ∧ op.toNat % 256 ∉ [0x9E, 0xA1]) ∨
    (op.toNat / 4096 = 0xF ∧ op.toNat % 256 ∉ [0x07, 0x0A, 0x15, 0x18, 0x1E, 0x29, 0x33, 0x55, 0x65])

/-- R77: for the encodings with ignored bits, every value of those bits decodes to the same instruction form with the
same meaning as the canonical one, whose ignored nibble is 0. Rests on decisions D5 and D6 (log entry 7). -/
def Obligations.IgnoredBitsChangeNothing : Prop :=
  ∀ (x y : Reg) (n : BitVec 4) (s : State),
    (decode (encXYN 0x5 x y n) = some (.seVxVy x y n) ∧ exec (.seVxVy x y n) s = exec (.seVxVy x y 0) s) ∧
    (decode (encXYN 0x9 x y n) = some (.sneVxVy x y n) ∧ exec (.sneVxVy x y n) s = exec (.sneVxVy x y 0) s) ∧
    (decode (encXYN 0x8 x y 0x6) = some (.shrVx x y) ∧ exec (.shrVx x y) s = exec (.shrVx x 0) s) ∧
    (decode (encXYN 0x8 x y 0xE) = some (.shlVx x y) ∧ exec (.shlVx x y) s = exec (.shlVx x 0) s) ∧
    ((Instr.seVxVy x y n).wellFormed = true ↔ n = 0) ∧ ((Instr.sneVxVy x y n).wellFormed = true ↔ n = 0) ∧
    ((Instr.shrVx x y).wellFormed = true ↔ y = 0) ∧ ((Instr.shlVx x y).wellFormed = true ↔ y = 0)

/-- Opcodes written out from R75, some of them the spot values of the spec's vectors (95_test_vectors.md 2.11). -/
def Obligations.WrittenOpcodesDecode : Prop :=
  decode 0x00E0 = some .cls ∧ decode 0x00EE = some .ret ∧ decode 0x00E1 = none ∧ decode 0x0000 = none ∧
  decode 0x1ABC = some (.jp 0xABC) ∧ decode 0x2210 = some (.call 0x210) ∧ decode 0x3310 = some (.seVxKk 3 0x10) ∧
  decode 0x5AB7 = some (.seVxVy 10 11 7) ∧ decode 0x8124 = some (.addVxVy 1 2) ∧ decode 0x8AB8 = none ∧
  decode 0x8ABE = some (.shlVx 10 11) ∧ decode 0x9AB1 = some (.sneVxVy 10 11 1) ∧ decode 0xA2F0 = some (.ldINnn 0x2F0) ∧
  decode 0xC30F = some (.rndVxKk 3 0x0F) ∧ decode 0xD125 = some (.drwVxVyN 1 2 5) ∧ decode 0xEA9E = some (.skpVx 10) ∧
  decode 0xEAA1 = some (.sknpVx 10) ∧ decode 0xFA07 = some (.ldVxDt 10) ∧ decode 0xFA65 = some (.ldVxMem 10) ∧
  decode 0xFA75 = none

/-! ## The step -/

/-- A Running core whose two bytes at PC exist and decode to `i` executes `i` on the state with PC advanced by 2, and
then ticks the timers if it is still Running (R100 to R106). That every such step ticks is decision D12 (log entry 13). -/
def Obligations.StepRunsTheDecodedInstruction : Prop :=
  ∀ (s : State) (i : Instr),
    s.run = .running → s.pc.toNat + 1 < 4096 →
    decode (s.mem.read s.pc.toNat ++ s.mem.read (s.pc.toNat + 1)) = some i →
    ∃ t, exec i { s with pc := s.pc + 2 } = .next t ∧
      step s = .next (if t.run = .running then { t with dt := countDown t.dt, st := countDown t.st } else t)

/-- R101: when PC or PC + 1 exceeds 4095 the fetch raises OutOfRange at the lower of the two that does; PC is not
advanced. Rests on decisions D11, D18 and D19 (log entries 3, 10, 11). -/
def Obligations.FetchAboveTheTopHalts : Prop :=
  ∀ s : State, s.run = .running → 4094 < s.pc.toNat →
    step s = .next { s with run := .halted .outOfRange, haltInfo := if 4095 < s.pc.toNat then s.pc else 4096 }

/-- R261: an opcode that matches no row halts the core; PC has been advanced, `halt_info` is the opcode, everything else
is as before the step. The form of the halt, `run` and `halt_info`, is decision D19 (log entry 3). -/
def Obligations.UnknownOpcodeHalts : Prop :=
  ∀ s : State, s.run = .running → s.pc.toNat + 1 < 4096 →
    decode (s.mem.read s.pc.toNat ++ s.mem.read (s.pc.toNat + 1)) = none →
    step s = .next { s with
      pc := s.pc + 2, run := .halted .unknownOpcode, haltInfo := s.mem.read s.pc.toNat ++ s.mem.read (s.pc.toNat + 1) }

/-- R110: while waiting or halted, any number of step iterations changes nothing. Rests on decisions D19 and D26 (log
entries 3, 19). -/
def Obligations.StepsWhileNotRunningChangeNothing : Prop :=
  ∀ (s : State) (count : Nat), s.run ≠ .running → runSteps count s = .next s

/-- No step ends in a fault or a refusal: every fatal condition is a next state (R266). That it is one is the model's
choice (log entry 3). -/
def Obligations.EveryStepAnswersANextState : Prop := ∀ s : State, ∃ t, step s = .next t

/-- R55: what LD [I], LD B or `load` stores is what a later fetch at that address reads. R55 is the spec's own inference
from R44 and R53. -/
def Obligations.FetchSeesEarlierStores : Prop :=
  ∀ s : State, s.mem.wf = true →
    (∀ (x : Reg) (k : Nat) (hk : k < x.val), s.i.toNat + x.val < 4096 →
      ∃ t, exec (.ldMemVx x) s = .next t ∧
        (t.setPc (BitVec.ofNat 16 (s.i.toNat + k))).fetchWord = s.readV ⟨k, by omega⟩ ++ s.readV ⟨k + 1, by omega⟩) ∧
    (∀ x : Reg, s.i.toNat + 2 < 4096 →
      ∃ t, exec (.ldBVx x) s = .next t ∧ (t.setPc s.i).fetchWord = s.readV x / 100 ++ s.readV x / 10 % 10 ∧
        (t.setPc (s.i + 1)).fetchWord = s.readV x / 10 % 10 ++ s.readV x % 10) ∧
    (∀ (bytes : List Byte) (base k : Nat) (hk : k + 1 < bytes.length), base + bytes.length ≤ 4096 →
      ((s.load bytes base).setPc (BitVec.ofNat 16 (base + k))).fetchWord = bytes[k] ++ bytes[k + 1])

/-- R228 and R229: the tick decrements each timer if positive and leaves 0 at 0, independently of the other; nothing
else changes, and `sound_on` is ST > 0. -/
def Obligations.TickCountsDownAndGatesSound : Prop :=
  ∀ s : State, s.tick.dt.toNat = s.dt.toNat - 1 ∧ s.tick.st.toNat = s.st.toNat - 1 ∧
    SameExcept { dt := true, st := true } s s.tick ∧ (s.soundOn = true ↔ 0 < s.st.toNat)

/-- R106: a step ticks once, after the instruction's own effect, exactly when it executed an instruction that left the
core Running; a step that raised, that started a wait, or that found the core waiting or halted does not tick. Rests on
decision D12 (log entry 13). -/
def Obligations.OneTickPerExecutedInstruction : Prop :=
  ∀ s t : State, step s = .next t →
    (∃ i u, s.run = .running ∧ s.fetchFault = none ∧ decode s.fetchWord = some i ∧ exec i s.advancePc = .next u ∧
      u.run = .running ∧ t.dt.toNat = u.dt.toNat - 1 ∧ t.st.toNat = u.st.toNat - 1 ∧
      SameExcept { dt := true, st := true } u t) ∨
    (t.run ≠ .running ∧ t.dt = s.dt ∧ t.st = s.st)

/-! ## Control flow -/

/-- R120. -/
def Obligations.JpLoadsThePc : Prop :=
  ∀ (nnn : BitVec 12) (s : State), FormatNnn (.jp nnn) 0x1 nnn ∧
    ∃ t, exec (.jp nnn) s = .next t ∧ t.pc.toNat = nnn.toNat ∧ SameExcept { pc := true } s t

/-- R121 and R263: below 16 entries CALL pushes PC and jumps; with 16 it raises StackOverflow, pushes nothing and keeps
PC. The depth 16 and the halt are decision D9 (log entry 12). -/
def Obligations.CallPushesOrOverflows : Prop :=
  ∀ (nnn : BitVec 12) (s : State), FormatNnn (.call nnn) 0x2 nnn ∧
    (s.stack.length < 16 →
      ∃ t, exec (.call nnn) s = .next t ∧ t.stack = s.stack ++ [s.pc] ∧ t.pc.toNat = nnn.toNat ∧
        SameExcept { pc := true, stack := true } s t) ∧
    (s.stack.length = 16 →
      ∃ t, exec (.call nnn) s = .next t ∧ HaltsWith .stackOverflow (0x2000 + nnn.toNat) s t)

/-- R122 and R264: RET pops the last pushed address, all 16 bits of it, into PC; with an empty stack it raises
StackUnderflow and changes nothing else. The halt is decision D10 (log entry 11). -/
def Obligations.RetPopsOrUnderflows : Prop :=
  ∀ s : State, encode .ret = 0x00EE ∧
    (∀ (older : List Word) (w : Word), s.stack = older ++ [w] →
      ∃ t, exec .ret s = .next t ∧ t.stack = older ∧ t.pc = w ∧ SameExcept { pc := true, stack := true } s t) ∧
    (s.stack = [] → ∃ t, exec .ret s = .next t ∧ HaltsWith .stackUnderflow 0x00EE s t)

/-- "CALL then RET restores PC to the instruction immediately after the CALL", and the stack with it, whatever the
subroutine did to the other registers in between (R121, R122). The bound 16 is decision D9 (log entry 12). -/
def Obligations.CallThenRetReturns : Prop :=
  ∀ (nnn : BitVec 12) (s : State), s.stack.length < 16 →
    ∃ t, exec (.call nnn) s = .next t ∧
      ∀ u : State, u.stack = t.stack → ∃ w, exec .ret u = .next w ∧ w.pc = s.pc ∧ w.stack = s.stack ∧
        SameExcept { pc := true, stack := true } u w

/-- R123 to R126: the four skips advance PC, already at the next instruction, by an extra 2 when their comparison of
8-bit unsigned values holds, and change nothing else; x = y always skips in SE Vx, Vy and never in SNE Vx, Vy.
The 16-bit wrap is decision D11, that op[3:0] is ignored decision D5 (log entries 10, 7). -/
def Obligations.ComparisonsSkip : Prop :=
  ∀ (x y : Reg) (kk : Byte) (n : BitVec 4) (s : State),
    (FormatXKk (.seVxKk x kk) 0x3 x kk ∧ ∃ t, exec (.seVxKk x kk) s = .next t ∧
      t.pc.toNat = (s.pc.toNat + if (s.readV x).toNat = kk.toNat then 2 else 0) % 65536 ∧ SameExcept { pc := true } s t) ∧
    (FormatXKk (.sneVxKk x kk) 0x4 x kk ∧ ∃ t, exec (.sneVxKk x kk) s = .next t ∧
      t.pc.toNat = (s.pc.toNat + if (s.readV x).toNat = kk.toNat then 0 else 2) % 65536 ∧ SameExcept { pc := true } s t) ∧
    (FormatXYN (.seVxVy x y n) 0x5 x y n ∧ ∃ t, exec (.seVxVy x y n) s = .next t ∧
      t.pc.toNat = (s.pc.toNat + if (s.readV x).toNat = (s.readV y).toNat then 2 else 0) % 65536 ∧
      SameExcept { pc := true } s t) ∧
    (FormatXYN (.sneVxVy x y n) 0x9 x y n ∧ ∃ t, exec (.sneVxVy x y n) s = .next t ∧
      t.pc.toNat = (s.pc.toNat + if (s.readV x).toNat = (s.readV y).toNat then 0 else 2) % 65536 ∧
      SameExcept { pc := true } s t)

/-! ## Immediate load and add, copy, logic -/

/-- R140 and R141: V[x] is loaded or added to mod 256; VF is written only when x = 15, as the plain destination. -/
def Obligations.ImmediateLoadAndAdd : Prop :=
  ∀ (x : Reg) (kk : Byte) (s : State),
    (FormatXKk (.ldVxKk x kk) 0x6 x kk ∧ ∃ t, exec (.ldVxKk x kk) s = .next t ∧ t.readV x = kk ∧
      SameExcept { regs := fun r => r == x } s t) ∧
    (FormatXKk (.addVxKk x kk) 0x7 x kk ∧ ∃ t, exec (.addVxKk x kk) s = .next t ∧
      (t.readV x).toNat = ((s.readV x).toNat + kk.toNat) % 256 ∧ SameExcept { regs := fun r => r == x } s t)

/-- R142 to R145: copy, OR, AND, XOR bit by bit into V[x], no flag changes. -/
def Obligations.CopyAndLogic : Prop :=
  ∀ (x y : Reg) (s : State),
    (FormatXYN (.ldVxVy x y) 0x8 x y 0x0 ∧ ∃ t, exec (.ldVxVy x y) s = .next t ∧ t.readV x = s.readV y ∧
      SameExcept { regs := fun r => r == x } s t) ∧
    (FormatXYN (.orVxVy x y) 0x8 x y 0x1 ∧ ∃ t, exec (.orVxVy x y) s = .next t ∧
      (∀ k : Nat, (t.readV x).getLsbD k = ((s.readV x).getLsbD k || (s.readV y).getLsbD k)) ∧
      SameExcept { regs := fun r => r == x } s t) ∧
    (FormatXYN (.andVxVy x y) 0x8 x y 0x2 ∧ ∃ t, exec (.andVxVy x y) s = .next t ∧
      (∀ k : Nat, (t.readV x).getLsbD k = ((s.readV x).getLsbD k && (s.readV y).getLsbD k)) ∧
      SameExcept { regs := fun r => r == x } s t) ∧
    (FormatXYN (.xorVxVy x y) 0x8 x y 0x3 ∧ ∃ t, exec (.xorVxVy x y) s = .next t ∧
      (∀ k : Nat, (t.readV x).getLsbD k = ((s.readV x).getLsbD k ^^ (s.readV y).getLsbD k)) ∧
      SameExcept { regs := fun r => r == x } s t)

/-! ## Flagged arithmetic -/

/-- R161: V[x] receives the sum mod 256 unless x = 15, and VF, last, the carry. What x = 15 leaves is decision D7 (log
entry 8). -/
def Obligations.AddWritesSumAndCarry : Prop :=
  ∀ (x y : Reg) (s : State), FormatXYN (.addVxVy x y) 0x8 x y 0x4 ∧ ∃ t, exec (.addVxVy x y) s = .next t ∧
    (x ≠ Reg.vF → (t.readV x).toNat = ((s.readV x).toNat + (s.readV y).toNat) % 256) ∧
    t.readV Reg.vF = (if (s.readV x).toNat + (s.readV y).toNat > 255 then 1 else 0) ∧
    SameExcept { regs := fun r => r == x || r == Reg.vF } s t

/-- R162 and R164: V[x] receives the wrapped difference unless x = 15, and VF, last, 1 exactly when the minuend is
strictly greater. What x = 15 leaves is decision D7 (log entry 8); SUBN's result is the spec's own inference (log entry
28). -/
def Obligations.SubAndSubnWriteDifferenceAndNoBorrow : Prop :=
  ∀ (x y : Reg) (s : State),
    (FormatXYN (.subVxVy x y) 0x8 x y 0x5 ∧ ∃ t, exec (.subVxVy x y) s = .next t ∧
      (x ≠ Reg.vF → ((t.readV x).toNat : Int) = ((s.readV x).toNat - (s.readV y).toNat : Int) % 256) ∧
      t.readV Reg.vF = (if (s.readV x).toNat > (s.readV y).toNat then 1 else 0) ∧
      SameExcept { regs := fun r => r == x || r == Reg.vF } s t) ∧
    (FormatXYN (.subnVxVy x y) 0x8 x y 0x7 ∧ ∃ t, exec (.subnVxVy x y) s = .next t ∧
      (x ≠ Reg.vF → ((t.readV x).toNat : Int) = ((s.readV y).toNat - (s.readV x).toNat : Int) % 256) ∧
      t.readV Reg.vF = (if (s.readV y).toNat > (s.readV x).toNat then 1 else 0) ∧
      SameExcept { regs := fun r => r == x || r == Reg.vF } s t)

/-- R163 and R165: V[x] is halved or doubled mod 256 in place unless x = 15, and VF, last, receives the bit shifted out;
y plays no part. In place is decision D6, what x = 15 leaves decision D7 (log entries 7, 8). -/
def Obligations.ShiftsWriteResultAndBitOut : Prop :=
  ∀ (x y : Reg) (s : State),
    (FormatXYN (.shrVx x y) 0x8 x y 0x6 ∧ ∃ t, exec (.shrVx x y) s = .next t ∧
      (x ≠ Reg.vF → (t.readV x).toNat = (s.readV x).toNat / 2) ∧
      (t.readV Reg.vF).toNat = (s.readV x).toNat % 2 ∧ SameExcept { regs := fun r => r == x || r == Reg.vF } s t) ∧
    (FormatXYN (.shlVx x y) 0x8 x y 0xE ∧ ∃ t, exec (.shlVx x y) s = .next t ∧
      (x ≠ Reg.vF → (t.readV x).toNat = (s.readV x).toNat * 2 % 256) ∧
      (t.readV Reg.vF).toNat = (s.readV x).toNat / 128 ∧ SameExcept { regs := fun r => r == x || r == Reg.vF } s t)

/-- R12, over all instructions: the six flag writers leave 0x00 or 0x01 in VF when they do not raise; every other
instruction leaves VF as it was unless it names VF through its x field as a destination or is the block load with x =
15. What x = 15 leaves is decision D7 (log entry 8). -/
def Obligations.OnlyListedInstructionsWriteVF : Prop :=
  ∀ (i : Instr) (s t : State), exec i s = .next t →
    match i with
    | .addVxVy _ _ | .subVxVy _ _ | .shrVx _ _ | .subnVxVy _ _ | .shlVx _ _ => t.readV Reg.vF = 0 ∨ t.readV Reg.vF = 1
    | .drwVxVyN _ _ _ => t.readV Reg.vF = 0 ∨ t.readV Reg.vF = 1 ∨ (t.run = .halted .outOfRange ∧ t.v = s.v)
    | .ldVxKk x _ | .addVxKk x _ | .ldVxVy x _ | .orVxVy x _ | .andVxVy x _ | .xorVxVy x _ | .rndVxKk x _ | .ldVxDt x
    | .ldVxMem x => x ≠ Reg.vF → t.readV Reg.vF = s.readV Reg.vF
    | .cls | .ret | .jp _ | .call _ | .seVxKk _ _ | .sneVxKk _ _ | .seVxVy _ _ _ | .sneVxVy _ _ _ | .ldINnn _ | .jpV0Nnn _
    | .skpVx _ | .sknpVx _ | .ldVxK _ | .ldDtVx _ | .ldStVx _ | .addIVx _ | .ldFVx _ | .ldBVx _ | .ldMemVx _ => t.v = s.v

/-! ## Addressing -/

/-- R180 and R181: I is loaded with nnn, or added to mod 65536, unmasked and without a flag. Unmasked 16 bits is
decision D11 (log entry 10). -/
def Obligations.AddressRegisterLoadAndAdd : Prop :=
  ∀ (nnn : BitVec 12) (x : Reg) (s : State),
    (FormatNnn (.ldINnn nnn) 0xA nnn ∧ ∃ t, exec (.ldINnn nnn) s = .next t ∧ t.i.toNat = nnn.toNat ∧
      SameExcept { i := true } s t) ∧
    (FormatXKk (.addIVx x) 0xF x 0x1E ∧ ∃ t, exec (.addIVx x) s = .next t ∧
      t.i.toNat = (s.i.toNat + (s.readV x).toNat) % 65536 ∧ SameExcept { i := true } s t)

/-- R182: the target is nnn plus V0, never V[x], unmasked and at most 0x10FE. Unmasked is decision D11 (log
entry 10). -/
def Obligations.IndexedJumpAddsV0 : Prop :=
  ∀ (nnn : BitVec 12) (s : State), FormatNnn (.jpV0Nnn nnn) 0xB nnn ∧
    ∃ t, exec (.jpV0Nnn nnn) s = .next t ∧ t.pc.toNat = nnn.toNat + (s.readV 0).toNat ∧ t.pc.toNat ≤ 0x10FE ∧
      SameExcept { pc := true } s t

/-! ## Randomness -/

/-- R190: V[x] receives the drawn byte, a free value, ANDed with kk, one byte is consumed, and nothing else changes;
what the instruction does with the byte is the same for every byte that could be drawn. The byte as an input is decision
D24 (log entry 1). -/
def Obligations.RndMasksTheDrawnByte : Prop :=
  ∀ (x : Reg) (kk : Byte) (s : State), FormatXKk (.rndVxKk x kk) 0xC x kk ∧
    exec (.rndVxKk x kk) s = .next (s.rndWith s.nextRandByte x kk) ∧
    ∀ r : Byte, (s.rndWith r x kk).readV x = r &&& kk ∧ (s.rndWith r x kk).randDraws = s.randDraws + 1 ∧
      SameExcept { regs := fun q => q == x, randDraws := true } s (s.rndWith r x kk)

/-- R111 and R190, over all instructions: a step consumes at most one draw, a random byte only in RND and a key answer
only in SKP and SKNP. R111 is the spec's own inference; the counters are the model's (log entries 1, 2). -/
def Obligations.OnlyRndAndKeySkipsDraw : Prop :=
  ∀ s t : State, step s = .next t →
    (t.randDraws = s.randDraws ∧ t.keyQueries = s.keyQueries) ∨
    (∃ x kk, decode s.fetchWord = some (.rndVxKk x kk) ∧ t.randDraws = s.randDraws + 1 ∧ t.keyQueries = s.keyQueries) ∨
    (∃ x, (decode s.fetchWord = some (.skpVx x) ∨ decode s.fetchWord = some (.sknpVx x)) ∧
      t.randDraws = s.randDraws ∧ t.keyQueries = s.keyQueries + 1)

/-! ## Drawing -/

/-- R196: each cell flips exactly when the sprite has a set bit there, coordinates wrapped one by one; VF is 1 exactly
when a cell that was on is turned off; nothing else changes. When a sprite byte lies above 4095 nothing is drawn and
OutOfRange is raised with the lowest such address. Rests on decisions D13, D14, D18 (log entries 10, 11, 14, 15). -/
def Obligations.DrwTogglesTheSpriteOrHalts : Prop :=
  ∀ (x y : Reg) (n : BitVec 4) (s : State), FormatXYN (.drwVxVyN x y n) 0xD x y n ∧
    ((n = 0 ∨ s.i.toNat + n.toNat - 1 ≤ 4095) →
      ∃ t, exec (.drwVxVyN x y n) s = .next t ∧
        (∀ cx cy, t.disp.cell cx cy ≠ s.disp.cell cx cy ↔ Drawn s x y n cx cy) ∧
        (t.readV Reg.vF = 0 ∨ t.readV Reg.vF = 1) ∧
        (t.readV Reg.vF = 1 ↔ ∃ cx cy, Drawn s x y n cx cy ∧ s.disp.cell cx cy = true) ∧
        SameExcept { regs := fun r => r == Reg.vF, disp := true } s t) ∧
    (n ≠ 0 → 4095 < s.i.toNat + n.toNat - 1 →
      ∃ t, exec (.drwVxVyN x y n) s = .next t ∧ HaltsWith .outOfRange (max s.i.toNat 4096) s t)

/-- R198: all cells off, nothing else changed, VF not written. That CLS exists is decision D4 (log entry 6). -/
def Obligations.ClsTurnsAllCellsOff : Prop :=
  ∀ s : State, encode .cls = 0x00E0 ∧ ∃ t, exec .cls s = .next t ∧ (∀ cx cy, t.disp.cell cx cy = false) ∧
    SameExcept { disp := true } s t

/-- R199: drawing the same sprite at the same place twice restores every cell; the second VF is 1 exactly when some set
sprite bit's cell was off before the first drawing. R199 is the spec's own inference; it rests on D13 and D14 (log
entries 14, 15). -/
def Obligations.DrawingTwiceRestoresTheDisplay : Prop :=
  ∀ (x y : Reg) (n : BitVec 4) (s : State), (n = 0 ∨ s.i.toNat + n.toNat - 1 ≤ 4095) →
    ∃ t, exec (.drwVxVyN x y n) s = .next t ∧
      ((t.readV x = s.readV x ∧ t.readV y = s.readV y) →
        ∃ u, exec (.drwVxVyN x y n) t = .next u ∧ (∀ cx cy, u.disp.cell cx cy = s.disp.cell cx cy) ∧
          (u.readV Reg.vF = 1 ↔ ∃ cx cy, Drawn s x y n cx cy ∧ s.disp.cell cx cy = false))

/-! ## Input -/

/-- R210 and R211: the key asked about is the whole value of V[x]; SKP skips when the answer, a free value, is 1 and
SKNP when it is 0; nothing else changes but that a query was made. The unmasked code is decision D17 (log entry 18); the
answer is a free value (log entry 2). -/
def Obligations.KeySkipsFollowTheAnswer : Prop :=
  ∀ (x : Reg) (s : State),
    (FormatXKk (.skpVx x) 0xE x 0x9E ∧ ∃ t, exec (.skpVx x) s = .next t ∧
      t.pc.toNat = (s.pc.toNat + if s.nextKeyAnswer (s.readV x) then 2 else 0) % 65536 ∧
      t.keyQueries = s.keyQueries + 1 ∧ SameExcept { pc := true, keyQueries := true } s t) ∧
    (FormatXKk (.sknpVx x) 0xE x 0xA1 ∧ ∃ t, exec (.sknpVx x) s = .next t ∧
      t.pc.toNat = (s.pc.toNat + if s.nextKeyAnswer (s.readV x) then 0 else 2) % 65536 ∧
      t.keyQueries = s.keyQueries + 1 ∧ SameExcept { pc := true, keyQueries := true } s t)

/-- R212: the core waits for register x; V[x], the timers and everything else keep their values, and the step's tick is
skipped. -/
def Obligations.KeyReadWaits : Prop :=
  ∀ (x : Reg) (s : State), FormatXKk (.ldVxK x) 0xF x 0x0A ∧
    (∃ t, exec (.ldVxK x) s = .next t ∧ t.run = .waitingForKey x ∧ t.haltInfo = s.haltInfo ∧
      SameExcept { run := true } s t) ∧
    (s.run = .running → s.fetchFault = none → decode s.fetchWord = some (.ldVxK x) →
      step s = .next { s with pc := s.pc + 2, run := .waitingForKey x })

/-- R213: a key press while waiting for register x writes the code mod 256 there and resumes the core at the same PC,
with no tick; at any other time it has no effect. Rests on decisions D17 and D26 (log entries 18, 19). -/
def Obligations.KeyPressResolvesTheWait : Prop :=
  ∀ (code : Nat) (s : State),
    (∀ x, s.run = .waitingForKey x →
      ((s.keyPress code).readV x).toNat = code % 256 ∧ (s.keyPress code).run = .running ∧
      (s.keyPress code).haltInfo = s.haltInfo ∧
      (conventionalKey code = true → ((s.keyPress code).readV x).toNat = code) ∧
      SameExcept { regs := fun r => r == x, run := true } s (s.keyPress code)) ∧
    ((∀ x, s.run ≠ .waitingForKey x) → s.keyPress code = s)

/-! ## Timers -/

/-- R225 to R227: V[x] receives DT, or DT or ST receives V[x]; at the end of a step that ran LD DT or LD ST the timer
holds V[x] - 1, or 0 for 0, and a step that ran LD Vx, DT leaves DT as it was, uncounted, in V[x]. The end-of-step
values rest on decision D12 (log entry 13). -/
def Obligations.TimerTransfers : Prop :=
  ∀ (x : Reg) (s : State),
    (FormatXKk (.ldVxDt x) 0xF x 0x07 ∧ ∃ t, exec (.ldVxDt x) s = .next t ∧ t.readV x = s.dt ∧
      SameExcept { regs := fun r => r == x } s t) ∧
    (FormatXKk (.ldDtVx x) 0xF x 0x15 ∧ ∃ t, exec (.ldDtVx x) s = .next t ∧ t.dt = s.readV x ∧
      SameExcept { dt := true } s t) ∧
    (FormatXKk (.ldStVx x) 0xF x 0x18 ∧ ∃ t, exec (.ldStVx x) s = .next t ∧ t.st = s.readV x ∧
      SameExcept { st := true } s t) ∧
    (s.run = .running → s.fetchFault = none →
      (decode s.fetchWord = some (.ldVxDt x) → ∃ t, step s = .next t ∧ t.readV x = s.dt ∧ t.dt.toNat = s.dt.toNat - 1) ∧
      (decode s.fetchWord = some (.ldDtVx x) → ∃ t, step s = .next t ∧ t.dt.toNat = (s.readV x).toNat - 1) ∧
      (decode s.fetchWord = some (.ldStVx x) →
        ∃ t, step s = .next t ∧ t.st.toNat = (s.readV x).toNat - 1 ∧ (t.soundOn = true ↔ 1 < (s.readV x).toNat)))

/-! ## Memory and BCD -/

/-- R240: I receives five times the whole 8-bit value, the address of the glyph when it is a digit. The unmasked product
is decision D15 (log entry 16). -/
def Obligations.GlyphAddressIsFiveTimesTheDigit : Prop :=
  ∀ (x : Reg) (s : State), FormatXKk (.ldFVx x) 0xF x 0x29 ∧
    ∃ t, exec (.ldFVx x) s = .next t ∧ t.i.toNat = (s.readV x).toNat * 5 ∧ SameExcept { i := true } s t

/-- R241: hundreds, tens and ones of V[x] at I, I + 1, I + 2, every other byte and every register unchanged; OutOfRange
with nothing written when I exceeds 4093. The range and the precise halt are decisions D11, D18 and D19 (log entries 3,
10, 11). -/
def Obligations.BcdStoresThreeDigitsOrHalts : Prop :=
  ∀ (x : Reg) (s : State), s.mem.wf = true → FormatXKk (.ldBVx x) 0xF x 0x33 ∧
    (s.i.toNat + 2 ≤ 4095 →
      ∃ t, exec (.ldBVx x) s = .next t ∧
        (t.mem.read s.i.toNat).toNat = (s.readV x).toNat / 100 ∧
        (t.mem.read (s.i.toNat + 1)).toNat = (s.readV x).toNat / 10 % 10 ∧
        (t.mem.read (s.i.toNat + 2)).toNat = (s.readV x).toNat % 10 ∧
        (∀ a, a < s.i.toNat ∨ s.i.toNat + 2 < a → t.mem.read a = s.mem.read a) ∧ SameExcept { mem := true } s t) ∧
    (4095 < s.i.toNat + 2 → ∃ t, exec (.ldBVx x) s = .next t ∧ HaltsWith .outOfRange (max s.i.toNat 4096) s t)

/-- R242: V0..Vx at I..I + x, every other byte, I and every register unchanged; OutOfRange with nothing written when I +
x exceeds 4095. That I is unchanged is decision D16, the range and the precise halt D11, D18 and D19 (log entries 3, 10,
11, 17). -/
def Obligations.BlockStoreWritesV0ToVxOrHalts : Prop :=
  ∀ (x : Reg) (s : State), s.mem.wf = true → FormatXKk (.ldMemVx x) 0xF x 0x55 ∧
    (s.i.toNat + x.val ≤ 4095 →
      ∃ t, exec (.ldMemVx x) s = .next t ∧ (∀ k : Reg, k ≤ x → t.mem.read (s.i.toNat + k.val) = s.readV k) ∧
        (∀ a, a < s.i.toNat ∨ s.i.toNat + x.val < a → t.mem.read a = s.mem.read a) ∧ SameExcept { mem := true } s t) ∧
    (4095 < s.i.toNat + x.val → ∃ t, exec (.ldMemVx x) s = .next t ∧ HaltsWith .outOfRange (max s.i.toNat 4096) s t)

/-- R243: V0..Vx from I..I + x, the registers above x, I and memory unchanged; OutOfRange with no register changed when
I + x exceeds 4095. That I is unchanged is decision D16, the range and the precise halt D11, D18 and D19 (log entries 3,
10, 11, 17). -/
def Obligations.BlockLoadReadsV0ToVxOrHalts : Prop :=
  ∀ (x : Reg) (s : State), FormatXKk (.ldVxMem x) 0xF x 0x65 ∧
    (s.i.toNat + x.val ≤ 4095 →
      ∃ t, exec (.ldVxMem x) s = .next t ∧ (∀ k : Reg, k ≤ x → t.readV k = s.mem.read (s.i.toNat + k.val)) ∧
        SameExcept { regs := fun r => r ≤ x } s t) ∧
    (4095 < s.i.toNat + x.val → ∃ t, exec (.ldVxMem x) s = .next t ∧ HaltsWith .outOfRange (max s.i.toNat 4096) s t)

/-- "Block-store then block-load through registers V0..Vk round-trips register contents through memory unchanged",
whatever happened to the registers and the rest of the machine in between (R242, R243). That I is unchanged is decision
D16 (log entry 17). -/
def Obligations.BlockStoreThenLoadRestoresRegisters : Prop :=
  ∀ (x : Reg) (s : State), s.mem.wf = true → s.i.toNat + x.val ≤ 4095 →
    ∃ t, exec (.ldMemVx x) s = .next t ∧
      ∀ u : State, u.i = t.i → (∀ k : Reg, k ≤ x → u.mem.read (t.i.toNat + k.val) = t.mem.read (t.i.toNat + k.val)) →
        ∃ w, exec (.ldVxMem x) u = .next w ∧ (∀ k : Reg, k ≤ x → w.readV k = s.readV k) ∧
          SameExcept { regs := fun r => r ≤ x } u w

/-- Two memories in canonical form that read alike at every address are the same data. The canonical form is the model's
choice (log entry 23). -/
def Obligations.CanonicalMemoriesThatReadAlikeAreEqual : Prop :=
  ∀ m m' : Memory, m.wf = true → m'.wf = true → (∀ a, m.read a = m'.read a) → m = m'

/-- R47, R11 to R19, R25 and R26, over all instructions: memory changes only in LD B and LD [I], the display only in DRW
and CLS, the stack only in CALL and RET, I only in LD I, ADD I and LD F, DT and ST only in LD DT and LD ST, PC, besides the
fetch advance, only in the jumps, CALL, RET and the skips, `run` and `halt_info` only in LD Vx, K and in the six
instructions that can raise, a general register only in the instructions that name it in their x field as destination, in
a block load that covers it and, for VF, in the six flag writers. That CLS exists is decision D4, that the block transfers
leave I alone D16, what can raise D9 to D11 (log entries 6, 17, 12, 11, 10). -/
def Obligations.EachElementHasItsWriters : Prop :=
  ∀ (i : Instr) (s t : State), exec i s = .next t →
    (t.mem = s.mem ∨ (∃ x, i = .ldBVx x) ∨ (∃ x, i = .ldMemVx x)) ∧
    (t.disp = s.disp ∨ i = .cls ∨ (∃ x y n, i = .drwVxVyN x y n)) ∧
    (t.stack = s.stack ∨ i = .ret ∨ (∃ nnn, i = .call nnn)) ∧
    (t.i = s.i ∨ (∃ nnn, i = .ldINnn nnn) ∨ (∃ x, i = .addIVx x) ∨ (∃ x, i = .ldFVx x)) ∧
    (t.dt = s.dt ∨ (∃ x, i = .ldDtVx x)) ∧ (t.st = s.st ∨ (∃ x, i = .ldStVx x)) ∧
    (t.pc = s.pc ∨ i = .ret ∨ (∃ nnn, i = .jp nnn) ∨ (∃ nnn, i = .call nnn) ∨ (∃ nnn, i = .jpV0Nnn nnn) ∨
      (t.pc = s.pc + 2 ∧ ((∃ x kk, i = .seVxKk x kk) ∨ (∃ x kk, i = .sneVxKk x kk) ∨ (∃ x y n, i = .seVxVy x y n) ∨
        (∃ x y n, i = .sneVxVy x y n) ∨ (∃ x, i = .skpVx x) ∨ (∃ x, i = .sknpVx x)))) ∧
    ((t.run = s.run ∧ t.haltInfo = s.haltInfo) ∨ ((∃ x, i = .ldVxK x) ∧ t.haltInfo = s.haltInfo) ∨
      i = .ret ∨ (∃ nnn, i = .call nnn) ∨ (∃ x y n, i = .drwVxVyN x y n) ∨ (∃ x, i = .ldBVx x) ∨ (∃ x, i = .ldMemVx x) ∨
      (∃ x, i = .ldVxMem x)) ∧
    (∀ r, t.readV r = s.readV r ∨
      (∃ kk, i = .ldVxKk r kk ∨ i = .addVxKk r kk ∨ i = .rndVxKk r kk) ∨
      (∃ y, i = .ldVxVy r y ∨ i = .orVxVy r y ∨ i = .andVxVy r y ∨ i = .xorVxVy r y) ∨
      (∃ x y, (r = x ∨ r = Reg.vF) ∧ (i = .addVxVy x y ∨ i = .subVxVy x y ∨ i = .shrVx x y ∨ i = .subnVxVy x y ∨
        i = .shlVx x y)) ∨
      (∃ x y n, r = Reg.vF ∧ i = .drwVxVyN x y n) ∨ i = .ldVxDt r ∨ (∃ x, r ≤ x ∧ i = .ldVxMem x))

/-! ## Fatal conditions -/

/-- R267: a step that halts the core changes nothing but `run`, `halt_info` and PC, and PC only when the fetch
succeeded, by the advance of 2; no tick follows. Rests on decisions D11, D18 and D19 (log entries 3, 10, 11). -/
def Obligations.FatalConditionsArePrecise : Prop :=
  ∀ (s t : State) (c : Cause), s.run = .running → step s = .next t → t.run = .halted c →
    t.haltOutput = some (c, t.haltInfo) ∧
    t = { s with
      run := .halted c, haltInfo := t.haltInfo, pc := if s.pc.toNat + 1 < 4096 then s.pc + 2 else s.pc }

/-- R269: the fetch range is checked first, then the decoding, then the instruction's own check, which is StackOverflow
for CALL, StackUnderflow for RET and OutOfRange for DRW, LD B, LD [I] and LD Vx,[I]; no other instruction halts the
core. R269 is the spec's own inference; the codes and words are decision D19 (log entry 3). -/
def Obligations.CausesInOrderOfPriority : Prop :=
  ∀ (s t : State) (c : Cause), s.run = .running → step s = .next t → t.run = .halted c →
    (4094 < s.pc.toNat ∧ c = .outOfRange) ∨
    (s.pc.toNat ≤ 4094 ∧ decode s.fetchWord = none ∧ c = .unknownOpcode ∧ t.haltInfo = s.fetchWord) ∨
    (∃ i, s.pc.toNat ≤ 4094 ∧ decode s.fetchWord = some i ∧
      (((∃ nnn, i = .call nnn) ∧ c = .stackOverflow ∧ t.haltInfo = s.fetchWord ∧ 16 ≤ s.stack.length) ∨
       (i = .ret ∧ c = .stackUnderflow ∧ t.haltInfo = 0x00EE ∧ s.stack = []) ∨
       (((∃ x y n, i = .drwVxVyN x y n) ∨ (∃ x, i = .ldBVx x) ∨ (∃ x, i = .ldMemVx x) ∨ (∃ x, i = .ldVxMem x)) ∧
         c = .outOfRange ∧ t.haltInfo.toNat = max s.i.toNat 4096)))

/-- R268: from a halted state every transaction but reset leaves the core halted with its first cause and `halt_info`,
and none but `load` changes anything at all. Rests on decision D19 (log entry 3). -/
def Obligations.HaltedIsLeftOnlyByReset : Prop :=
  ∀ (e : HostEvent) (s t : State) (c : Cause), s.run = .halted c → transact e s = .next t →
    e = .reset ∨ (t.run = .halted c ∧ t.haltInfo = s.haltInfo ∧
      (t = s ∨ ∃ bytes base, e = .load bytes base ∧ t = { s with mem := t.mem }))

/-- R280 and R18: a waiting core is woken by a key press or reset only; steps and cycles leave it as it is, and a load
either leaves it waiting or, when it does not fit, halts it. A failed load halting the core is decision D32 (log entry
21). -/
def Obligations.WaitingIsLeftOnlyByKeyPressOrReset : Prop :=
  ∀ (e : HostEvent) (s t : State) (x : Reg), s.run = .waitingForKey x → transact e s = .next t →
    match e with
    | .reset => t = { State.reset with randDraws := s.randDraws, keyQueries := s.keyQueries }
    | .keyPress _ => t.run = .running
    | .step | .cycle => t = s
    | .load bytes base =>
      (base + bytes.length ≤ 4096 ∧ t = { s with mem := t.mem }) ∨
      (4096 < base + bytes.length ∧ HaltsWith .memoryOverflow base s t)

/-! ## Reset, load, cycles, whole-machine claims -/

/-- R291: after reset, whatever the state was, the core is Running at 0x200, and the first step, whatever has been loaded
in between, fetches the opcode at 0x200 and 0x201 and decodes and executes it. That reset leaves the core Running is
decision D8 (log entry 4). -/
def Obligations.ExecutionStartsAt0x200 : Prop :=
  ∀ s t : State, transact .reset s = .next t →
    t.run = .running ∧ t.pc = 0x200 ∧
    step t = decodeAndExecute (t.mem.read 0x200 ++ t.mem.read 0x201) { t with pc := 0x202 } ∧
    ∀ (bytes : List Byte) (base : Nat), base + bytes.length ≤ 4096 →
      ∃ u, transact (.load bytes base) t = .next u ∧
        step u = decodeAndExecute (u.mem.read 0x200 ++ u.mem.read 0x201) { u with pc := 0x202 }

/-- R32, R290 and R268: whatever the state was, Running, waiting or halted, `reset` leaves every element at its value of
R32, all 80 glyph bytes (R22) included, which is the state `State.reset`; the model's two counters of draws go on counting
(log entries 1, 2). All but PC are the spec's own decisions D8 and D25 (log entry 4), the glyph bytes general knowledge
(D29, log entry 5). -/
def Obligations.ResetValues : Prop :=
  ∀ s t : State, transact .reset s = .next t →
    t.pc = 0x200 ∧ (∀ r, t.readV r = 0) ∧ t.i = 0 ∧ t.stack = [] ∧ t.dt = 0 ∧ t.st = 0 ∧ t.soundOn = false ∧
    t.run = .running ∧ t.haltInfo = 0 ∧ (∀ x y, t.disp.cell x y = false) ∧
    t.mem.readBlock 0 40 =
      [0xF0, 0x90, 0x90, 0x90, 0xF0, 0x20, 0x60, 0x20, 0x20, 0x70, 0xF0, 0x10, 0xF0, 0x80, 0xF0, 0xF0, 0x10, 0xF0, 0x10, 0xF0,
       0x90, 0x90, 0xF0, 0x10, 0x10, 0xF0, 0x80, 0xF0, 0x10, 0xF0, 0xF0, 0x80, 0xF0, 0x90, 0xF0, 0xF0, 0x10, 0x20, 0x40, 0x40] ∧
    t.mem.readBlock 40 40 =
      [0xF0, 0x90, 0xF0, 0x90, 0xF0, 0xF0, 0x90, 0xF0, 0x10, 0xF0, 0xF0, 0x90, 0xF0, 0x90, 0x90, 0xE0, 0x90, 0xE0, 0x90, 0xE0,
       0xF0, 0x80, 0x80, 0x80, 0xF0, 0xE0, 0x90, 0x90, 0x90, 0xE0, 0xF0, 0x80, 0xF0, 0x80, 0xF0, 0xF0, 0x80, 0xF0, 0x80, 0x80] ∧
    (∀ a, 80 ≤ a → t.mem.read a = 0) ∧
    t = { State.reset with randDraws := s.randDraws, keyQueries := s.keyQueries }

/-- The invariant holds at reset. -/
def Obligations.ResetMeetsTheInvariant : Prop := State.reset.Inv

/-- The invariant is kept by every step, from every state that meets it. Bounds: log entries 10, 12, 23. -/
def Obligations.StepKeepsTheInvariant : Prop := ∀ s t : State, s.Inv → step s = .next t → t.Inv

/-- Every state that transactions of the host lead to, whatever program is loaded and whatever keys are pressed, meets
the invariant. Bounds: log entries 10, 12, 23. -/
def Obligations.ReachableStatesMeetTheInvariant : Prop := ∀ s : State, Reachable s → s.Inv

/-- R50: a load that fits writes its bytes, no other byte, and nothing else. -/
def Obligations.LoadCopiesBytes : Prop :=
  ∀ (bytes : List Byte) (base : Nat) (s : State), s.mem.wf = true → base + bytes.length ≤ 4096 →
    (∀ (k : Nat) (hk : k < bytes.length), (s.load bytes base).mem.read (base + k) = bytes[k]) ∧
    (∀ a, a < base ∨ base + bytes.length ≤ a → (s.load bytes base).mem.read a = s.mem.read a) ∧
    s.load bytes base = { s with mem := (s.load bytes base).mem }

/-- R51 and R265: a load that does not fit writes no byte and halts the core with MemoryOverflow and `base` mod 65536,
unless it is halted already, and then changes nothing (R268). Rests on decisions D23 and D32 (log entry 21). -/
def Obligations.LoadOverflowHalts : Prop :=
  ∀ (bytes : List Byte) (base : Nat) (s : State), 4096 < base + bytes.length →
    ((∀ c, s.run ≠ .halted c) → HaltsWith .memoryOverflow base s (s.load bytes base)) ∧
    ((∃ c, s.run = .halted c) → s.load bytes base = s)

/-- R108: a run of no steps is no change, a run of one is the step, a run of steps reaches the same state however it is
grouped, a `cycle()` is a run of ten, and grouping into cycles has no effect. Rests on decision D27 (log entry 27). -/
def Obligations.GroupingOfStepsHasNoEffect : Prop :=
  (∀ s : State, runSteps 0 s = .next s ∧ runSteps 1 s = step s) ∧
  (∀ (m n : Nat) (s : State), ∃ t, runSteps m s = .next t ∧ runSteps (m + n) s = runSteps n t) ∧
  (∀ s : State, cycle s = runSteps 10 s)

/-- R112: at a jump to itself a Running core goes on for ever, and only DT and ST change, counting down to 0. Rests on
decisions D12 and D33 (log entry 13). -/
def Obligations.SelfJumpOnlyCountsDownTheTimers : Prop :=
  ∀ (s : State) (nnn : BitVec 12) (count : Nat),
    s.run = .running → s.fetchFault = none → decode s.fetchWord = some (.jp nnn) → nnn.toNat = s.pc.toNat →
    ∃ t, runSteps count s = .next t ∧ SameExcept { dt := true, st := true } s t ∧
      t.dt.toNat = s.dt.toNat - count ∧ t.st.toNat = s.st.toNat - count

/-- R17 and R19: no instruction reads ST or `halt_info`: what an instruction does to everything else does not depend on
them. -/
def Obligations.NoInstructionReadsSTOrHaltInfo : Prop :=
  ∀ (i : Instr) (s t : State) (b : Byte) (w : Word), exec i s = .next t →
    ∃ u, exec i { s with st := b, haltInfo := w } = .next u ∧ { u with st := t.st, haltInfo := t.haltInfo } = t
end

