-- ==== Sys2Proof/Laws/Params.lean ====
section
/-! SUPPORT. The parameters and fixed quantities as numerals (rule R4). -/

namespace Sys2Proof.Machine

@[simp] theorem memSize_eq : Config.memSize = 4096 := rfl
@[simp] theorem stackDepth_eq : hardware.stackDepth = 16 := rfl
@[simp] theorem timerCadence_eq : hardware.timerCadence = .perInstruction := rfl
@[simp] theorem speed_eq : hardware.speed = 10 := rfl
@[simp] theorem keyCodes_eq : hardware.keyCodes = 16 := rfl
@[simp] theorem resetFill_eq : hardware.resetFill = 0 := rfl

/-- The glyph ROM fills the glyph region exactly (R21). -/
theorem glyphRom_length : hardware.glyphRom.length = Config.glyphRegion := rfl

/-- An address above the glyph region reads as zero after reset (R32). -/
theorem unlisted_above {a : Nat} (h : 80 ≤ a) : Memory.unlisted a = 0 := by
  rw [Memory.unlisted, if_neg (by simpa [Config.glyphRegion] using h)]; rfl

end Sys2Proof.Machine
end

