-- ==== Sys2Proof/Laws/State.lean ====
section
/-! SUPPORT. One lemma per field per update of the state, each true by rfl, so that no proof unfolds a record update. -/

namespace Sys2Proof.Machine

variable (s : State)

@[simp] theorem State.writeV_mem (x : Reg) (b : Byte) : (s.writeV x b).mem = s.mem := rfl
@[simp] theorem State.writeV_v (x : Reg) (b : Byte) : (s.writeV x b).v = s.v.set x b := rfl
@[simp] theorem State.writeV_i (x : Reg) (b : Byte) : (s.writeV x b).i = s.i := rfl
@[simp] theorem State.writeV_pc (x : Reg) (b : Byte) : (s.writeV x b).pc = s.pc := rfl
@[simp] theorem State.writeV_stack (x : Reg) (b : Byte) : (s.writeV x b).stack = s.stack := rfl
@[simp] theorem State.writeV_dt (x : Reg) (b : Byte) : (s.writeV x b).dt = s.dt := rfl
@[simp] theorem State.writeV_st (x : Reg) (b : Byte) : (s.writeV x b).st = s.st := rfl
@[simp] theorem State.writeV_run (x : Reg) (b : Byte) : (s.writeV x b).run = s.run := rfl
@[simp] theorem State.writeV_haltInfo (x : Reg) (b : Byte) : (s.writeV x b).haltInfo = s.haltInfo := rfl
@[simp] theorem State.writeV_disp (x : Reg) (b : Byte) : (s.writeV x b).disp = s.disp := rfl
@[simp] theorem State.writeV_randDraws (x : Reg) (b : Byte) : (s.writeV x b).randDraws = s.randDraws := rfl
@[simp] theorem State.writeV_keyQueries (x : Reg) (b : Byte) : (s.writeV x b).keyQueries = s.keyQueries := rfl

@[simp] theorem State.setI_mem (w : Word) : (s.setI w).mem = s.mem := rfl
@[simp] theorem State.setI_v (w : Word) : (s.setI w).v = s.v := rfl
@[simp] theorem State.setI_i (w : Word) : (s.setI w).i = w := rfl
@[simp] theorem State.setI_pc (w : Word) : (s.setI w).pc = s.pc := rfl
@[simp] theorem State.setI_stack (w : Word) : (s.setI w).stack = s.stack := rfl
@[simp] theorem State.setI_dt (w : Word) : (s.setI w).dt = s.dt := rfl
@[simp] theorem State.setI_st (w : Word) : (s.setI w).st = s.st := rfl
@[simp] theorem State.setI_run (w : Word) : (s.setI w).run = s.run := rfl
@[simp] theorem State.setI_haltInfo (w : Word) : (s.setI w).haltInfo = s.haltInfo := rfl
@[simp] theorem State.setI_disp (w : Word) : (s.setI w).disp = s.disp := rfl
@[simp] theorem State.setI_randDraws (w : Word) : (s.setI w).randDraws = s.randDraws := rfl
@[simp] theorem State.setI_keyQueries (w : Word) : (s.setI w).keyQueries = s.keyQueries := rfl
@[simp] theorem State.setI_readV (w : Word) (q : Reg) : (s.setI w).readV q = s.readV q := rfl

@[simp] theorem State.setPc_mem (w : Word) : (s.setPc w).mem = s.mem := rfl
@[simp] theorem State.setPc_v (w : Word) : (s.setPc w).v = s.v := rfl
@[simp] theorem State.setPc_i (w : Word) : (s.setPc w).i = s.i := rfl
@[simp] theorem State.setPc_pc (w : Word) : (s.setPc w).pc = w := rfl
@[simp] theorem State.setPc_stack (w : Word) : (s.setPc w).stack = s.stack := rfl
@[simp] theorem State.setPc_dt (w : Word) : (s.setPc w).dt = s.dt := rfl
@[simp] theorem State.setPc_st (w : Word) : (s.setPc w).st = s.st := rfl
@[simp] theorem State.setPc_run (w : Word) : (s.setPc w).run = s.run := rfl
@[simp] theorem State.setPc_haltInfo (w : Word) : (s.setPc w).haltInfo = s.haltInfo := rfl
@[simp] theorem State.setPc_disp (w : Word) : (s.setPc w).disp = s.disp := rfl
@[simp] theorem State.setPc_randDraws (w : Word) : (s.setPc w).randDraws = s.randDraws := rfl
@[simp] theorem State.setPc_keyQueries (w : Word) : (s.setPc w).keyQueries = s.keyQueries := rfl
@[simp] theorem State.setPc_readV (w : Word) (q : Reg) : (s.setPc w).readV q = s.readV q := rfl

@[simp] theorem State.setDt_mem (b : Byte) : (s.setDt b).mem = s.mem := rfl
@[simp] theorem State.setDt_v (b : Byte) : (s.setDt b).v = s.v := rfl
@[simp] theorem State.setDt_i (b : Byte) : (s.setDt b).i = s.i := rfl
@[simp] theorem State.setDt_pc (b : Byte) : (s.setDt b).pc = s.pc := rfl
@[simp] theorem State.setDt_stack (b : Byte) : (s.setDt b).stack = s.stack := rfl
@[simp] theorem State.setDt_dt (b : Byte) : (s.setDt b).dt = b := rfl
@[simp] theorem State.setDt_st (b : Byte) : (s.setDt b).st = s.st := rfl
@[simp] theorem State.setDt_run (b : Byte) : (s.setDt b).run = s.run := rfl
@[simp] theorem State.setDt_haltInfo (b : Byte) : (s.setDt b).haltInfo = s.haltInfo := rfl
@[simp] theorem State.setDt_disp (b : Byte) : (s.setDt b).disp = s.disp := rfl
@[simp] theorem State.setDt_randDraws (b : Byte) : (s.setDt b).randDraws = s.randDraws := rfl
@[simp] theorem State.setDt_keyQueries (b : Byte) : (s.setDt b).keyQueries = s.keyQueries := rfl
@[simp] theorem State.setDt_readV (b : Byte) (q : Reg) : (s.setDt b).readV q = s.readV q := rfl

@[simp] theorem State.setSt_mem (b : Byte) : (s.setSt b).mem = s.mem := rfl
@[simp] theorem State.setSt_v (b : Byte) : (s.setSt b).v = s.v := rfl
@[simp] theorem State.setSt_i (b : Byte) : (s.setSt b).i = s.i := rfl
@[simp] theorem State.setSt_pc (b : Byte) : (s.setSt b).pc = s.pc := rfl
@[simp] theorem State.setSt_stack (b : Byte) : (s.setSt b).stack = s.stack := rfl
@[simp] theorem State.setSt_dt (b : Byte) : (s.setSt b).dt = s.dt := rfl
@[simp] theorem State.setSt_st (b : Byte) : (s.setSt b).st = b := rfl
@[simp] theorem State.setSt_run (b : Byte) : (s.setSt b).run = s.run := rfl
@[simp] theorem State.setSt_haltInfo (b : Byte) : (s.setSt b).haltInfo = s.haltInfo := rfl
@[simp] theorem State.setSt_disp (b : Byte) : (s.setSt b).disp = s.disp := rfl
@[simp] theorem State.setSt_randDraws (b : Byte) : (s.setSt b).randDraws = s.randDraws := rfl
@[simp] theorem State.setSt_keyQueries (b : Byte) : (s.setSt b).keyQueries = s.keyQueries := rfl
@[simp] theorem State.setSt_readV (b : Byte) (q : Reg) : (s.setSt b).readV q = s.readV q := rfl

@[simp] theorem State.setRun_mem (r : RunState) : (s.setRun r).mem = s.mem := rfl
@[simp] theorem State.setRun_v (r : RunState) : (s.setRun r).v = s.v := rfl
@[simp] theorem State.setRun_i (r : RunState) : (s.setRun r).i = s.i := rfl
@[simp] theorem State.setRun_pc (r : RunState) : (s.setRun r).pc = s.pc := rfl
@[simp] theorem State.setRun_stack (r : RunState) : (s.setRun r).stack = s.stack := rfl
@[simp] theorem State.setRun_dt (r : RunState) : (s.setRun r).dt = s.dt := rfl
@[simp] theorem State.setRun_st (r : RunState) : (s.setRun r).st = s.st := rfl
@[simp] theorem State.setRun_run (r : RunState) : (s.setRun r).run = r := rfl
@[simp] theorem State.setRun_haltInfo (r : RunState) : (s.setRun r).haltInfo = s.haltInfo := rfl
@[simp] theorem State.setRun_disp (r : RunState) : (s.setRun r).disp = s.disp := rfl
@[simp] theorem State.setRun_randDraws (r : RunState) : (s.setRun r).randDraws = s.randDraws := rfl
@[simp] theorem State.setRun_keyQueries (r : RunState) : (s.setRun r).keyQueries = s.keyQueries := rfl
@[simp] theorem State.setRun_readV (r : RunState) (q : Reg) : (s.setRun r).readV q = s.readV q := rfl

@[simp] theorem State.raise_mem (c : Cause) (w : Word) : (s.raise c w).mem = s.mem := rfl
@[simp] theorem State.raise_v (c : Cause) (w : Word) : (s.raise c w).v = s.v := rfl
@[simp] theorem State.raise_i (c : Cause) (w : Word) : (s.raise c w).i = s.i := rfl
@[simp] theorem State.raise_pc (c : Cause) (w : Word) : (s.raise c w).pc = s.pc := rfl
@[simp] theorem State.raise_stack (c : Cause) (w : Word) : (s.raise c w).stack = s.stack := rfl
@[simp] theorem State.raise_dt (c : Cause) (w : Word) : (s.raise c w).dt = s.dt := rfl
@[simp] theorem State.raise_st (c : Cause) (w : Word) : (s.raise c w).st = s.st := rfl
@[simp] theorem State.raise_run (c : Cause) (w : Word) : (s.raise c w).run = .halted c := rfl
@[simp] theorem State.raise_haltInfo (c : Cause) (w : Word) : (s.raise c w).haltInfo = w := rfl
@[simp] theorem State.raise_disp (c : Cause) (w : Word) : (s.raise c w).disp = s.disp := rfl
@[simp] theorem State.raise_randDraws (c : Cause) (w : Word) : (s.raise c w).randDraws = s.randDraws := rfl
@[simp] theorem State.raise_keyQueries (c : Cause) (w : Word) : (s.raise c w).keyQueries = s.keyQueries := rfl
@[simp] theorem State.raise_readV (c : Cause) (w : Word) (q : Reg) : (s.raise c w).readV q = s.readV q := rfl

@[simp] theorem State.applyReset_mem : s.applyReset.mem = [] := rfl
@[simp] theorem State.applyReset_v : s.applyReset.v = State.reset.v := rfl
@[simp] theorem State.applyReset_i : s.applyReset.i = 0 := rfl
@[simp] theorem State.applyReset_pc : s.applyReset.pc = 0x200 := rfl
@[simp] theorem State.applyReset_stack : s.applyReset.stack = [] := rfl
@[simp] theorem State.applyReset_dt : s.applyReset.dt = 0 := rfl
@[simp] theorem State.applyReset_st : s.applyReset.st = 0 := rfl
@[simp] theorem State.applyReset_run : s.applyReset.run = .running := rfl
@[simp] theorem State.applyReset_haltInfo : s.applyReset.haltInfo = 0 := rfl
@[simp] theorem State.applyReset_disp : s.applyReset.disp = State.reset.disp := rfl
@[simp] theorem State.applyReset_randDraws : s.applyReset.randDraws = s.randDraws := rfl
@[simp] theorem State.applyReset_keyQueries : s.applyReset.keyQueries = s.keyQueries := rfl

/-- Resetting the reset state changes nothing. -/
theorem State.applyReset_reset : State.reset.applyReset = State.reset := rfl

@[simp] theorem State.advancePc_mem : (s.advancePc).mem = s.mem := rfl
@[simp] theorem State.advancePc_v : (s.advancePc).v = s.v := rfl
@[simp] theorem State.advancePc_i : (s.advancePc).i = s.i := rfl
@[simp] theorem State.advancePc_pc : (s.advancePc).pc = s.pc + 2 := rfl
@[simp] theorem State.advancePc_stack : (s.advancePc).stack = s.stack := rfl
@[simp] theorem State.advancePc_dt : (s.advancePc).dt = s.dt := rfl
@[simp] theorem State.advancePc_st : (s.advancePc).st = s.st := rfl
@[simp] theorem State.advancePc_run : (s.advancePc).run = s.run := rfl
@[simp] theorem State.advancePc_haltInfo : (s.advancePc).haltInfo = s.haltInfo := rfl
@[simp] theorem State.advancePc_disp : (s.advancePc).disp = s.disp := rfl
@[simp] theorem State.advancePc_randDraws : (s.advancePc).randDraws = s.randDraws := rfl
@[simp] theorem State.advancePc_keyQueries : (s.advancePc).keyQueries = s.keyQueries := rfl
@[simp] theorem State.advancePc_readV (q : Reg) : (s.advancePc).readV q = s.readV q := rfl

@[simp] theorem State.skipIf_mem (c : Bool) : (s.skipIf c).mem = s.mem := rfl
@[simp] theorem State.skipIf_v (c : Bool) : (s.skipIf c).v = s.v := rfl
@[simp] theorem State.skipIf_i (c : Bool) : (s.skipIf c).i = s.i := rfl
@[simp] theorem State.skipIf_pc (c : Bool) : (s.skipIf c).pc = if c then s.pc + 2 else s.pc := rfl
@[simp] theorem State.skipIf_stack (c : Bool) : (s.skipIf c).stack = s.stack := rfl
@[simp] theorem State.skipIf_dt (c : Bool) : (s.skipIf c).dt = s.dt := rfl
@[simp] theorem State.skipIf_st (c : Bool) : (s.skipIf c).st = s.st := rfl
@[simp] theorem State.skipIf_run (c : Bool) : (s.skipIf c).run = s.run := rfl
@[simp] theorem State.skipIf_haltInfo (c : Bool) : (s.skipIf c).haltInfo = s.haltInfo := rfl
@[simp] theorem State.skipIf_disp (c : Bool) : (s.skipIf c).disp = s.disp := rfl
@[simp] theorem State.skipIf_randDraws (c : Bool) : (s.skipIf c).randDraws = s.randDraws := rfl
@[simp] theorem State.skipIf_keyQueries (c : Bool) : (s.skipIf c).keyQueries = s.keyQueries := rfl
@[simp] theorem State.skipIf_readV (c : Bool) (q : Reg) : (s.skipIf c).readV q = s.readV q := rfl

@[simp] theorem State.storeAtI_mem (bytes : List Byte) : (s.storeAtI bytes).mem = s.mem.writeBlock s.i.toNat bytes := rfl
@[simp] theorem State.storeAtI_v (bytes : List Byte) : (s.storeAtI bytes).v = s.v := rfl
@[simp] theorem State.storeAtI_i (bytes : List Byte) : (s.storeAtI bytes).i = s.i := rfl
@[simp] theorem State.storeAtI_pc (bytes : List Byte) : (s.storeAtI bytes).pc = s.pc := rfl
@[simp] theorem State.storeAtI_stack (bytes : List Byte) : (s.storeAtI bytes).stack = s.stack := rfl
@[simp] theorem State.storeAtI_dt (bytes : List Byte) : (s.storeAtI bytes).dt = s.dt := rfl
@[simp] theorem State.storeAtI_st (bytes : List Byte) : (s.storeAtI bytes).st = s.st := rfl
@[simp] theorem State.storeAtI_run (bytes : List Byte) : (s.storeAtI bytes).run = s.run := rfl
@[simp] theorem State.storeAtI_haltInfo (bytes : List Byte) : (s.storeAtI bytes).haltInfo = s.haltInfo := rfl
@[simp] theorem State.storeAtI_disp (bytes : List Byte) : (s.storeAtI bytes).disp = s.disp := rfl
@[simp] theorem State.storeAtI_randDraws (bytes : List Byte) : (s.storeAtI bytes).randDraws = s.randDraws := rfl
@[simp] theorem State.storeAtI_keyQueries (bytes : List Byte) : (s.storeAtI bytes).keyQueries = s.keyQueries := rfl
@[simp] theorem State.storeAtI_readV (bytes : List Byte) (q : Reg) : (s.storeAtI bytes).readV q = s.readV q := rfl

@[simp] theorem State.loadRegsAtI_mem (x : Reg) : (s.loadRegsAtI x).mem = s.mem := rfl
@[simp] theorem State.loadRegsAtI_v (x : Reg) : (s.loadRegsAtI x).v = Vector.ofFn fun k : Fin 16 => if k ≤ x then s.mem.read (s.i.toNat + k.val) else s.v.get k := rfl
@[simp] theorem State.loadRegsAtI_i (x : Reg) : (s.loadRegsAtI x).i = s.i := rfl
@[simp] theorem State.loadRegsAtI_pc (x : Reg) : (s.loadRegsAtI x).pc = s.pc := rfl
@[simp] theorem State.loadRegsAtI_stack (x : Reg) : (s.loadRegsAtI x).stack = s.stack := rfl
@[simp] theorem State.loadRegsAtI_dt (x : Reg) : (s.loadRegsAtI x).dt = s.dt := rfl
@[simp] theorem State.loadRegsAtI_st (x : Reg) : (s.loadRegsAtI x).st = s.st := rfl
@[simp] theorem State.loadRegsAtI_run (x : Reg) : (s.loadRegsAtI x).run = s.run := rfl
@[simp] theorem State.loadRegsAtI_haltInfo (x : Reg) : (s.loadRegsAtI x).haltInfo = s.haltInfo := rfl
@[simp] theorem State.loadRegsAtI_disp (x : Reg) : (s.loadRegsAtI x).disp = s.disp := rfl
@[simp] theorem State.loadRegsAtI_randDraws (x : Reg) : (s.loadRegsAtI x).randDraws = s.randDraws := rfl
@[simp] theorem State.loadRegsAtI_keyQueries (x : Reg) : (s.loadRegsAtI x).keyQueries = s.keyQueries := rfl

@[simp] theorem State.clearDisp_mem : (s.clearDisp).mem = s.mem := rfl
@[simp] theorem State.clearDisp_v : (s.clearDisp).v = s.v := rfl
@[simp] theorem State.clearDisp_i : (s.clearDisp).i = s.i := rfl
@[simp] theorem State.clearDisp_pc : (s.clearDisp).pc = s.pc := rfl
@[simp] theorem State.clearDisp_stack : (s.clearDisp).stack = s.stack := rfl
@[simp] theorem State.clearDisp_dt : (s.clearDisp).dt = s.dt := rfl
@[simp] theorem State.clearDisp_st : (s.clearDisp).st = s.st := rfl
@[simp] theorem State.clearDisp_run : (s.clearDisp).run = s.run := rfl
@[simp] theorem State.clearDisp_haltInfo : (s.clearDisp).haltInfo = s.haltInfo := rfl
@[simp] theorem State.clearDisp_disp : (s.clearDisp).disp = Display.cleared := rfl
@[simp] theorem State.clearDisp_randDraws : (s.clearDisp).randDraws = s.randDraws := rfl
@[simp] theorem State.clearDisp_keyQueries : (s.clearDisp).keyQueries = s.keyQueries := rfl
@[simp] theorem State.clearDisp_readV (q : Reg) : (s.clearDisp).readV q = s.readV q := rfl

@[simp] theorem State.toggleCells_mem (cells : List (Fin 64 × Fin 32)) : (s.toggleCells cells).mem = s.mem := rfl
@[simp] theorem State.toggleCells_v (cells : List (Fin 64 × Fin 32)) : (s.toggleCells cells).v = s.v := rfl
@[simp] theorem State.toggleCells_i (cells : List (Fin 64 × Fin 32)) : (s.toggleCells cells).i = s.i := rfl
@[simp] theorem State.toggleCells_pc (cells : List (Fin 64 × Fin 32)) : (s.toggleCells cells).pc = s.pc := rfl
@[simp] theorem State.toggleCells_stack (cells : List (Fin 64 × Fin 32)) : (s.toggleCells cells).stack = s.stack := rfl
@[simp] theorem State.toggleCells_dt (cells : List (Fin 64 × Fin 32)) : (s.toggleCells cells).dt = s.dt := rfl
@[simp] theorem State.toggleCells_st (cells : List (Fin 64 × Fin 32)) : (s.toggleCells cells).st = s.st := rfl
@[simp] theorem State.toggleCells_run (cells : List (Fin 64 × Fin 32)) : (s.toggleCells cells).run = s.run := rfl
@[simp] theorem State.toggleCells_haltInfo (cells : List (Fin 64 × Fin 32)) : (s.toggleCells cells).haltInfo = s.haltInfo := rfl
@[simp] theorem State.toggleCells_disp (cells : List (Fin 64 × Fin 32)) : (s.toggleCells cells).disp = (Display.toggleAll cells s.disp).1 := rfl
@[simp] theorem State.toggleCells_randDraws (cells : List (Fin 64 × Fin 32)) : (s.toggleCells cells).randDraws = s.randDraws := rfl
@[simp] theorem State.toggleCells_keyQueries (cells : List (Fin 64 × Fin 32)) : (s.toggleCells cells).keyQueries = s.keyQueries := rfl
@[simp] theorem State.toggleCells_readV (cells : List (Fin 64 × Fin 32)) (q : Reg) : (s.toggleCells cells).readV q = s.readV q := rfl

@[simp] theorem State.countRandDraw_mem : (s.countRandDraw).mem = s.mem := rfl
@[simp] theorem State.countRandDraw_v : (s.countRandDraw).v = s.v := rfl
@[simp] theorem State.countRandDraw_i : (s.countRandDraw).i = s.i := rfl
@[simp] theorem State.countRandDraw_pc : (s.countRandDraw).pc = s.pc := rfl
@[simp] theorem State.countRandDraw_stack : (s.countRandDraw).stack = s.stack := rfl
@[simp] theorem State.countRandDraw_dt : (s.countRandDraw).dt = s.dt := rfl
@[simp] theorem State.countRandDraw_st : (s.countRandDraw).st = s.st := rfl
@[simp] theorem State.countRandDraw_run : (s.countRandDraw).run = s.run := rfl
@[simp] theorem State.countRandDraw_haltInfo : (s.countRandDraw).haltInfo = s.haltInfo := rfl
@[simp] theorem State.countRandDraw_disp : (s.countRandDraw).disp = s.disp := rfl
@[simp] theorem State.countRandDraw_randDraws : (s.countRandDraw).randDraws = s.randDraws + 1 := rfl
@[simp] theorem State.countRandDraw_keyQueries : (s.countRandDraw).keyQueries = s.keyQueries := rfl
@[simp] theorem State.countRandDraw_readV (q : Reg) : (s.countRandDraw).readV q = s.readV q := rfl

@[simp] theorem State.countKeyQuery_mem : (s.countKeyQuery).mem = s.mem := rfl
@[simp] theorem State.countKeyQuery_v : (s.countKeyQuery).v = s.v := rfl
@[simp] theorem State.countKeyQuery_i : (s.countKeyQuery).i = s.i := rfl
@[simp] theorem State.countKeyQuery_pc : (s.countKeyQuery).pc = s.pc := rfl
@[simp] theorem State.countKeyQuery_stack : (s.countKeyQuery).stack = s.stack := rfl
@[simp] theorem State.countKeyQuery_dt : (s.countKeyQuery).dt = s.dt := rfl
@[simp] theorem State.countKeyQuery_st : (s.countKeyQuery).st = s.st := rfl
@[simp] theorem State.countKeyQuery_run : (s.countKeyQuery).run = s.run := rfl
@[simp] theorem State.countKeyQuery_haltInfo : (s.countKeyQuery).haltInfo = s.haltInfo := rfl
@[simp] theorem State.countKeyQuery_disp : (s.countKeyQuery).disp = s.disp := rfl
@[simp] theorem State.countKeyQuery_randDraws : (s.countKeyQuery).randDraws = s.randDraws := rfl
@[simp] theorem State.countKeyQuery_keyQueries : (s.countKeyQuery).keyQueries = s.keyQueries + 1 := rfl
@[simp] theorem State.countKeyQuery_readV (q : Reg) : (s.countKeyQuery).readV q = s.readV q := rfl

@[simp] theorem State.tick_mem : (s.tick).mem = s.mem := rfl
@[simp] theorem State.tick_v : (s.tick).v = s.v := rfl
@[simp] theorem State.tick_i : (s.tick).i = s.i := rfl
@[simp] theorem State.tick_pc : (s.tick).pc = s.pc := rfl
@[simp] theorem State.tick_stack : (s.tick).stack = s.stack := rfl
@[simp] theorem State.tick_dt : (s.tick).dt = countDown s.dt := rfl
@[simp] theorem State.tick_st : (s.tick).st = countDown s.st := rfl
@[simp] theorem State.tick_run : (s.tick).run = s.run := rfl
@[simp] theorem State.tick_haltInfo : (s.tick).haltInfo = s.haltInfo := rfl
@[simp] theorem State.tick_disp : (s.tick).disp = s.disp := rfl
@[simp] theorem State.tick_randDraws : (s.tick).randDraws = s.randDraws := rfl
@[simp] theorem State.tick_keyQueries : (s.tick).keyQueries = s.keyQueries := rfl
@[simp] theorem State.tick_readV (q : Reg) : (s.tick).readV q = s.readV q := rfl

@[simp] theorem State.writeFlag_mem (c : Bool) : (s.writeFlag c).mem = s.mem := rfl
@[simp] theorem State.writeFlag_v (c : Bool) : (s.writeFlag c).v = s.v.set Reg.vF (flagByte c) := rfl
@[simp] theorem State.writeFlag_i (c : Bool) : (s.writeFlag c).i = s.i := rfl
@[simp] theorem State.writeFlag_pc (c : Bool) : (s.writeFlag c).pc = s.pc := rfl
@[simp] theorem State.writeFlag_stack (c : Bool) : (s.writeFlag c).stack = s.stack := rfl
@[simp] theorem State.writeFlag_dt (c : Bool) : (s.writeFlag c).dt = s.dt := rfl
@[simp] theorem State.writeFlag_st (c : Bool) : (s.writeFlag c).st = s.st := rfl
@[simp] theorem State.writeFlag_run (c : Bool) : (s.writeFlag c).run = s.run := rfl
@[simp] theorem State.writeFlag_haltInfo (c : Bool) : (s.writeFlag c).haltInfo = s.haltInfo := rfl
@[simp] theorem State.writeFlag_disp (c : Bool) : (s.writeFlag c).disp = s.disp := rfl
@[simp] theorem State.writeFlag_randDraws (c : Bool) : (s.writeFlag c).randDraws = s.randDraws := rfl
@[simp] theorem State.writeFlag_keyQueries (c : Bool) : (s.writeFlag c).keyQueries = s.keyQueries := rfl

@[simp] theorem State.writeResultAndFlag_mem (x : Reg) (r : Byte) (c : Bool) : (s.writeResultAndFlag x r c).mem = s.mem := rfl
@[simp] theorem State.writeResultAndFlag_v (x : Reg) (r : Byte) (c : Bool) : (s.writeResultAndFlag x r c).v = (s.v.set x r).set Reg.vF (flagByte c) := rfl
@[simp] theorem State.writeResultAndFlag_i (x : Reg) (r : Byte) (c : Bool) : (s.writeResultAndFlag x r c).i = s.i := rfl
@[simp] theorem State.writeResultAndFlag_pc (x : Reg) (r : Byte) (c : Bool) : (s.writeResultAndFlag x r c).pc = s.pc := rfl
@[simp] theorem State.writeResultAndFlag_stack (x : Reg) (r : Byte) (c : Bool) : (s.writeResultAndFlag x r c).stack = s.stack := rfl
@[simp] theorem State.writeResultAndFlag_dt (x : Reg) (r : Byte) (c : Bool) : (s.writeResultAndFlag x r c).dt = s.dt := rfl
@[simp] theorem State.writeResultAndFlag_st (x : Reg) (r : Byte) (c : Bool) : (s.writeResultAndFlag x r c).st = s.st := rfl
@[simp] theorem State.writeResultAndFlag_run (x : Reg) (r : Byte) (c : Bool) : (s.writeResultAndFlag x r c).run = s.run := rfl
@[simp] theorem State.writeResultAndFlag_haltInfo (x : Reg) (r : Byte) (c : Bool) : (s.writeResultAndFlag x r c).haltInfo = s.haltInfo := rfl
@[simp] theorem State.writeResultAndFlag_disp (x : Reg) (r : Byte) (c : Bool) : (s.writeResultAndFlag x r c).disp = s.disp := rfl
@[simp] theorem State.writeResultAndFlag_randDraws (x : Reg) (r : Byte) (c : Bool) : (s.writeResultAndFlag x r c).randDraws = s.randDraws := rfl
@[simp] theorem State.writeResultAndFlag_keyQueries (x : Reg) (r : Byte) (c : Bool) : (s.writeResultAndFlag x r c).keyQueries = s.keyQueries := rfl

end Sys2Proof.Machine
end

