-- ==== Sys2Proof/Laws/Registers.lean ====
section
/-! SUPPORT. Reading registers after writing them. -/

namespace Sys2Proof.Machine

/-- A register reads as what was written to it. -/
@[simp] theorem State.readV_writeV_same (s : State) (x : Reg) (b : Byte) : (s.writeV x b).readV x = b := by
  simp [State.readV, State.writeV, Vector.get_eq_getElem]

/-- Writing one register leaves the others. -/
theorem State.readV_writeV_ne (s : State) {x r : Reg} (b : Byte) (h : r ≠ x) : (s.writeV x b).readV r = s.readV r := by
  have h' : x.val ≠ r.val := fun e => h (Fin.ext e.symm)
  simp [State.readV, State.writeV, Vector.get_eq_getElem, h']

/-- VF after a flag write is the flag. -/
@[simp] theorem State.readV_writeFlag_vF (s : State) (c : Bool) : (s.writeFlag c).readV Reg.vF = flagByte c := by
  simp [State.writeFlag]

/-- A flag write leaves every register but VF. -/
theorem State.readV_writeFlag_ne (s : State) {r : Reg} (c : Bool) (h : r ≠ Reg.vF) : (s.writeFlag c).readV r = s.readV r :=
  s.readV_writeV_ne _ h

/-- The flag write is last: VF holds the flag even when it is the destination (R160(c)). -/
@[simp] theorem State.readV_writeResultAndFlag_vF (s : State) (x : Reg) (r : Byte) (c : Bool) :
    (s.writeResultAndFlag x r c).readV Reg.vF = flagByte c := by simp [State.writeResultAndFlag]

/-- A destination other than VF holds the result. -/
theorem State.readV_writeResultAndFlag_dest (s : State) {x : Reg} (r : Byte) (c : Bool) (h : x ≠ Reg.vF) :
    (s.writeResultAndFlag x r c).readV x = r := by
  rw [State.writeResultAndFlag, State.readV_writeFlag_ne _ _ h, State.readV_writeV_same]

/-- Every register but the destination and VF is left. -/
theorem State.readV_writeResultAndFlag_ne (s : State) {x q : Reg} (r : Byte) (c : Bool) (hx : q ≠ x) (hf : q ≠ Reg.vF) :
    (s.writeResultAndFlag x r c).readV q = s.readV q := by
  rw [State.writeResultAndFlag, State.readV_writeFlag_ne _ _ hf, State.readV_writeV_ne _ _ hx]

/-- The block load reads memory up to x and leaves the registers above (R243). -/
theorem State.readV_loadRegsAtI (s : State) (x q : Reg) :
    (s.loadRegsAtI x).readV q = if q ≤ x then s.mem.read (s.i.toNat + q.val) else s.readV q := by
  simp [State.readV, Vector.get_eq_getElem]

/-- A register write changes its own register at most. -/
theorem State.readV_writeV_eq_or (s : State) (x q : Reg) (b : Byte) : (s.writeV x b).readV q = s.readV q ∨ x = q :=
  (em (x = q)).symm.imp_left fun h => s.readV_writeV_ne b (Ne.symm h)

/-- A flag write changes VF at most. -/
theorem State.readV_writeFlag_eq_or (s : State) (q : Reg) (c : Bool) :
    (s.writeFlag c).readV q = s.readV q ∨ q = Reg.vF :=
  (em (q = Reg.vF)).symm.imp_left fun h => s.readV_writeFlag_ne c h

/-- A result with its flag changes the destination and VF at most. -/
theorem State.readV_writeResultAndFlag_eq_or (s : State) (x q : Reg) (r : Byte) (c : Bool) :
    (s.writeResultAndFlag x r c).readV q = s.readV q ∨ q = x ∨ q = Reg.vF :=
  (em (q = x ∨ q = Reg.vF)).symm.imp_left fun h => s.readV_writeResultAndFlag_ne r c (h ∘ .inl) (h ∘ .inr)

/-- The block load changes the registers up to x at most. -/
theorem State.readV_loadRegsAtI_eq_or (s : State) (x q : Reg) : (s.loadRegsAtI x).readV q = s.readV q ∨ q ≤ x :=
  (em (q ≤ x)).symm.imp_left fun h => by rw [State.readV_loadRegsAtI, if_neg h]

/-- The registers V0..Vx are x + 1 bytes (R242). -/
@[simp] theorem State.length_regsUpTo (s : State) (x : Reg) : (s.regsUpTo x).length = x.val + 1 := by
  simp [State.regsUpTo]

/-- The k-th byte of the block is V[k]. -/
theorem State.getElem_regsUpTo (s : State) (x : Reg) (k : Nat) (h : k < (s.regsUpTo x).length) :
    (s.regsUpTo x)[k] = s.readV ⟨k, by simp at h; omega⟩ := by
  simp [State.regsUpTo, State.readV, Vector.get_eq_getElem]

/-- A flag is 0 or 1, and as a number it is the truth value. -/
theorem flagByte_toNat (c : Bool) : (flagByte c).toNat = c.toNat := by cases c <;> rfl

end Sys2Proof.Machine
end

