-- ==== Sys2Proof/Laws/Memory.lean ====
section
/-! SUPPORT. Memory: read after write, and every operation keeps the canonical form. -/

namespace Sys2Proof.Machine

namespace MemoryLaws

/-- A memory in form from `lo` lists nothing below `lo`. -/
theorem read_below {m : Memory} : ∀ {lo a : Nat}, m.wfFrom lo = true → a < lo → m.read a = Memory.unlisted a := by
  induction m with
  | nil => intros; rfl
  | cons c rest ih =>
    intro lo a h ha
    simp only [Memory.wfFrom, Bool.and_eq_true, decide_eq_true_eq] at h
    rw [Memory.read, if_neg (by omega)]
    exact ih h.2 (by omega)

/-- The form from `lo` implies the form from any lower bound. -/
theorem wfFrom_mono {m : Memory} {lo lo' : Nat} (h : m.wfFrom lo = true) (hle : lo' ≤ lo) : m.wfFrom lo' = true := by
  cases m with
  | nil => rfl
  | cons c rest =>
    simp only [Memory.wfFrom, Bool.and_eq_true, decide_eq_true_eq] at h ⊢
    exact ⟨⟨⟨by omega, h.1.1.2⟩, h.1.2⟩, h.2⟩

theorem read_insert (m : Memory) (a b : Nat) (x : Byte) : (m.insert a x).read b = if b = a then x else m.read b := by
  induction m with
  | nil => simp only [Memory.insert, Memory.read, eq_comm (a := a)]
  | cons c rest ih =>
    simp only [Memory.insert]
    split
    · simp only [Memory.read, eq_comm (a := a)]
    · split
      · subst_vars
        simp only [Memory.read, eq_comm (b := b)]
        split <;> simp_all
      · simp only [Memory.read, ih]
        by_cases hb : c.1 = b
        · rw [if_pos hb, if_neg (by omega), if_pos hb]
        · rw [if_neg hb, if_neg hb]

theorem read_erase_ne (m : Memory) {a b : Nat} (h : b ≠ a) : (m.erase a).read b = m.read b := by
  induction m with
  | nil => rfl
  | cons c rest ih =>
    simp only [Memory.erase]
    split
    · rw [Memory.read, if_neg (by omega)]
    · simp only [Memory.read, ih]

theorem read_erase_same {m : Memory} : ∀ {lo : Nat} (a : Nat), m.wfFrom lo = true → (m.erase a).read a = Memory.unlisted a := by
  induction m with
  | nil => intros; rfl
  | cons c rest ih =>
    intro lo a h
    simp only [Memory.wfFrom, Bool.and_eq_true, decide_eq_true_eq] at h
    simp only [Memory.erase]
    split
    · exact read_below h.2 (by omega)
    · rw [Memory.read, if_neg (by assumption)]; exact ih a h.2

theorem wfFrom_erase {m : Memory} : ∀ {lo : Nat} (a : Nat), m.wfFrom lo = true → (m.erase a).wfFrom lo = true := by
  induction m with
  | nil => intros; rfl
  | cons c rest ih =>
    intro lo a h
    simp only [Memory.wfFrom, Bool.and_eq_true, decide_eq_true_eq] at h
    simp only [Memory.erase]
    split
    · exact wfFrom_mono h.2 (by omega)
    · simp only [Memory.wfFrom, Bool.and_eq_true, decide_eq_true_eq]; exact ⟨h.1, ih a h.2⟩

theorem wfFrom_insert {m : Memory} {a : Nat} {x : Byte} (hx : x ≠ Memory.unlisted a) (ha : a < 4096) :
    ∀ {lo : Nat}, lo ≤ a → m.wfFrom lo = true → (m.insert a x).wfFrom lo = true := by
  induction m with
  | nil => intro lo hl _; simp [Memory.insert, Memory.wfFrom, hl, ha, hx]
  | cons c rest ih =>
    intro lo hl h
    simp only [Memory.wfFrom, Bool.and_eq_true, decide_eq_true_eq] at h
    simp only [Memory.insert]
    split
    · simp only [Memory.wfFrom, Bool.and_eq_true, decide_eq_true_eq]
      exact ⟨⟨⟨hl, ha⟩, by simpa using hx⟩, ⟨⟨by omega, h.1.1.2⟩, h.1.2⟩, h.2⟩
    · split
      · subst_vars
        simp only [Memory.wfFrom, Bool.and_eq_true, decide_eq_true_eq]
        exact ⟨⟨⟨hl, ha⟩, by simpa using hx⟩, h.2⟩
      · simp only [Memory.wfFrom, Bool.and_eq_true, decide_eq_true_eq]
        exact ⟨h.1, ih (by omega) h.2⟩

end MemoryLaws

/-- A write reads back at its address and leaves every other (R43, R47). -/
theorem Memory.read_write {m : Memory} (h : m.wf = true) (a b : Nat) (x : Byte) :
    (m.write a x).read b = if b = a then x else m.read b := by
  rw [Memory.write]
  split
  · split
    · subst_vars; exact MemoryLaws.read_erase_same b h
    · exact MemoryLaws.read_erase_ne m (by assumption)
  · exact MemoryLaws.read_insert m a b x

/-- A write keeps the canonical form. -/
theorem Memory.wf_write {m : Memory} (h : m.wf = true) {a : Nat} (ha : a < 4096) (x : Byte) : (m.write a x).wf = true := by
  rw [Memory.write]
  split
  · exact MemoryLaws.wfFrom_erase a h
  · exact MemoryLaws.wfFrom_insert (by assumption) ha (Nat.zero_le a) h

/-- A block write keeps the canonical form. -/
theorem Memory.wf_writeBlock {m : Memory} (bytes : List Byte) {base : Nat} (h : m.wf = true)
    (hb : base + bytes.length ≤ 4096) : (m.writeBlock base bytes).wf = true := by
  induction bytes generalizing m base with
  | nil => exact h
  | cons x rest ih =>
    simp only [List.length_cons] at hb
    exact ih (Memory.wf_write h (by omega) x) (by omega)

/-- A block write leaves every address outside the block. -/
theorem Memory.read_writeBlock_outside {m : Memory} (bytes : List Byte) {base a : Nat} (h : m.wf = true)
    (hb : base + bytes.length ≤ 4096) (ha : a < base ∨ base + bytes.length ≤ a) :
    (m.writeBlock base bytes).read a = m.read a := by
  induction bytes generalizing m base with
  | nil => rfl
  | cons x rest ih =>
    simp only [List.length_cons] at hb ha
    rw [Memory.writeBlock, ih (Memory.wf_write h (by omega) x) (by omega) (by omega), Memory.read_write h,
      if_neg (by omega)]

/-- A block write reads back byte by byte. -/
theorem Memory.read_writeBlock_inside {m : Memory} (bytes : List Byte) {base : Nat} (h : m.wf = true)
    (hb : base + bytes.length ≤ 4096) (k : Nat) (hk : k < bytes.length) :
    (m.writeBlock base bytes).read (base + k) = bytes[k] := by
  induction bytes generalizing m base k with
  | nil => exact absurd hk (Nat.not_lt_zero k)
  | cons x rest ih =>
    simp only [List.length_cons] at hb hk
    have hw := Memory.wf_write h (a := base) (by omega) x
    cases k with
    | zero =>
      rw [Memory.writeBlock, Memory.read_writeBlock_outside rest hw (by omega) (by omega), Memory.read_write h]
      simp
    | succ k =>
      have e : base + (k + 1) = base + 1 + k := by omega
      rw [Memory.writeBlock, e, ih hw (by omega) k (by omega)]
      simp

/-- A block read has the length asked for. -/
@[simp] theorem Memory.length_readBlock (m : Memory) (base count : Nat) : (m.readBlock base count).length = count := by
  induction count generalizing base with
  | zero => rfl
  | succ n ih => simp [Memory.readBlock, ih]

/-- The k-th byte of a block read. -/
theorem Memory.getElem_readBlock (m : Memory) (base count k : Nat) (h : k < (m.readBlock base count).length) :
    (m.readBlock base count)[k] = m.read (base + k) := by
  induction count generalizing base k with
  | zero => simp [Memory.readBlock] at h
  | succ n ih =>
    cases k with
    | zero => rfl
    | succ k =>
      simp only [Memory.readBlock, List.getElem_cons_succ]
      rw [ih]; congr 1; omega

/-- `MemRead` answers exactly at the addresses that exist (R41, R42). -/
theorem State.memRead_eq_none_iff (s : State) (a : Nat) : s.memRead a = none ↔ 4095 < a := by
  unfold State.memRead
  split <;> simp_all only [memSize_eq, reduceCtorEq, false_iff, true_iff] <;> omega

/-- Reset memory is in its canonical form. -/
theorem reset_mem_wf : State.reset.mem.wf = true := rfl

end Sys2Proof.Machine
end

