-- ==== Sys2Proof/Laws/Ops.lean ====
section
/-! SUPPORT. What each shared operation can do, said once: the range check, the stack, the tick, the step. -/

namespace Sys2Proof.Machine

/-- The range check finds nothing exactly when every address exists (R42). -/
theorem rangeFault_eq_none_iff (base count : Nat) : rangeFault base count = none ↔ ∀ k < count, base + k < 4096 := by
  simp only [rangeFault, memSize_eq]
  split
  · simp only [reduceCtorEq, false_iff, not_forall]
    exact ⟨count - 1, by omega, by omega⟩
  · simp only [true_iff]; intro k hk; omega

/-- What it finds is the lowest address that does not exist (R42). -/
theorem rangeFault_eq_some_iff (base count a : Nat) :
    rangeFault base count = some a ↔ count ≠ 0 ∧ 4096 < base + count ∧ a = max base 4096 := by
  simp only [rangeFault, memSize_eq]
  split <;> rename_i h
  · simp only [Option.some.injEq, h, true_and, ne_eq, not_false_eq_true]
    split <;> omega
  · simp only [reduceCtorEq, false_iff]; omega

/-- In range, the guarded effect happens. -/
theorem State.guardRange_of_le (s : State) {count : Nat} (body : State) (h : count = 0 ∨ s.i.toNat + count ≤ 4096) :
    s.guardRange count body = body := by
  have e : rangeFault s.i.toNat count = none := (rangeFault_eq_none_iff _ _).2 fun k hk => by omega
  rw [State.guardRange, e]

/-- Out of range, OutOfRange is raised and nothing else happens. -/
theorem State.guardRange_of_gt (s : State) {count : Nat} (body : State) (h0 : count ≠ 0) (h : 4096 < s.i.toNat + count) :
    s.guardRange count body = s.raise .outOfRange (BitVec.ofNat 16 (max s.i.toNat 4096)) := by
  have e : rangeFault s.i.toNat count = some (max s.i.toNat 4096) := (rangeFault_eq_some_iff _ _ _).2 ⟨h0, h, rfl⟩
  rw [State.guardRange, e]

/-- The guarded effect happens or the core halts at an address that does not exist; no third thing. -/
theorem State.guardRange_cases (s : State) (count : Nat) (body : State) :
    s.guardRange count body = body ∨
      (4096 < s.i.toNat + count ∧
        s.guardRange count body = s.raise .outOfRange (BitVec.ofNat 16 (max s.i.toNat 4096))) := by
  by_cases h : count = 0 ∨ s.i.toNat + count ≤ 4096
  · exact .inl (s.guardRange_of_le body h)
  · exact .inr ⟨by omega, s.guardRange_of_gt body (by omega) (by omega)⟩

/-- The two things a push can do (R121, R263). -/
theorem State.pushAndJump_cases (s : State) (op target : Word) :
    (s.stack.length < 16 ∧ s.pushAndJump op target = { s with stack := s.stack ++ [s.pc], pc := target }) ∨
    (16 ≤ s.stack.length ∧ s.pushAndJump op target = s.raise .stackOverflow op) := by
  by_cases h : s.stack.length < 16
  · exact .inl ⟨h, if_pos h⟩
  · exact .inr ⟨by omega, if_neg h⟩

/-- The two things a pop can do (R122, R264). -/
theorem State.popToPc_cases (s : State) (op : Word) :
    (∃ older w, s.stack = older ++ [w] ∧ s.popToPc op = { s with stack := older, pc := w }) ∨
    (s.stack = [] ∧ s.popToPc op = s.raise .stackUnderflow op) := by
  rcases List.eq_nil_or_concat s.stack with h | ⟨older, w, h⟩
  · exact .inr ⟨h, by simp [State.popToPc, h]⟩
  · exact .inl ⟨older, w, by simpa using h, by simp [State.popToPc, h]⟩

/-- Decrement if positive, as numbers (R228). -/
theorem countDown_toNat (b : Byte) : (countDown b).toNat = b.toNat - 1 := by
  rw [countDown]
  split
  · subst_vars; rfl
  · have : b.toNat ≠ 0 := fun h => by rename_i hb; exact hb (BitVec.eq_of_toNat_eq h)
    rw [BitVec.toNat_sub]; simp; omega

/-- The end of a step, for a core still Running. -/
theorem State.afterInstruction_running {s : State} (h : s.run = .running) : s.afterInstruction = s.tick := by
  simp [State.afterInstruction, h]

/-- The end of a step, for a core that waits or has halted. -/
theorem State.afterInstruction_not_running {s : State} (h : s.run ≠ .running) : s.afterInstruction = s := by
  simp [State.afterInstruction, h]

/-- A fetch can raise exactly when PC exceeds 4094 (R101). -/
theorem State.fetchFault_eq_none_iff (s : State) : s.fetchFault = none ↔ s.pc.toNat ≤ 4094 := by
  rw [State.fetchFault, rangeFault_eq_none_iff]
  constructor
  · intro h; have := h 1 (by omega); omega
  · intro h k hk; omega

/-- Everything a step can do (R100 to R106, R110): nothing, a fetch that raises, an unknown opcode, or an instruction. -/
theorem step_cases (s : State) :
    (s.run ≠ .running ∧ step s = .next s) ∨
    (s.run = .running ∧ 4094 < s.pc.toNat ∧
      step s = .next (s.raise .outOfRange (BitVec.ofNat 16 (max s.pc.toNat 4096)))) ∨
    (s.run = .running ∧ s.pc.toNat ≤ 4094 ∧ decode s.fetchWord = none ∧
      step s = .next (s.advancePc.raise .unknownOpcode s.fetchWord)) ∨
    (∃ i, s.run = .running ∧ s.pc.toNat ≤ 4094 ∧ decode s.fetchWord = some i ∧ step s = finish (exec i s.advancePc)) := by
  cases hr : s.run with
  | waitingForKey x => exact .inl ⟨by simp, by simp [step, hr]⟩
  | halted c => exact .inl ⟨by simp, by simp [step, hr]⟩
  | running =>
    by_cases hp : s.pc.toNat ≤ 4094
    · have hf := s.fetchFault_eq_none_iff.2 hp
      cases hd : decode s.fetchWord with
      | none => exact .inr (.inr (.inl ⟨rfl, hp, rfl, by simp [step, hr, hf, decodeAndExecute, hd]⟩))
      | some i => exact .inr (.inr (.inr ⟨i, rfl, hp, rfl, by simp [step, hr, hf, decodeAndExecute, hd]⟩))
    · have hf : s.fetchFault = some (max s.pc.toNat 4096) :=
        (rangeFault_eq_some_iff _ _ _).2 ⟨by omega, by omega, rfl⟩
      exact .inr (.inl ⟨rfl, by omega, by simp [step, hr, hf]⟩)

end Sys2Proof.Machine
end

