-- ==== Sys2Proof/Laws/Display.lean ====
section
/-! SUPPORT. The display: what toggling a list of distinct cells does, and which cells a sprite has (rules R25, R196). -/

namespace Sys2Proof.Machine

/-- A toggle flips its own cell and leaves every other (R25). -/
theorem Display.cell_toggle (d : Display) (x a : Fin 64) (y b : Fin 32) :
    (d.toggle x y).1.cell a b = if a = x ∧ b = y then !d.cell a b else d.cell a b := by
  simp only [Display.toggle, Display.cell, Vector.get_eq_getElem, Vector.getElem_set, Fin.ext_iff]
  by_cases hy : b = y
  · subst hy
    by_cases hx : a = x
    · subst hx; simp
    · have : x.val ≠ a.val := fun e => hx (Fin.ext e.symm)
      have h2 : a.val ≠ x.val := fun e => this e.symm
      simp [this, h2]
  · have : y.val ≠ b.val := fun e => hy (Fin.ext e.symm)
    have h2 : b.val ≠ y.val := fun e => this e.symm
    simp [this, h2]

/-- Toggling distinct cells flips exactly those (R196). -/
theorem Display.cell_toggleAll {cells : List (Fin 64 × Fin 32)} (h : cells.Nodup) (d : Display) (a : Fin 64) (b : Fin 32) :
    (Display.toggleAll cells d).1.cell a b = if (a, b) ∈ cells then !d.cell a b else d.cell a b := by
  induction cells generalizing d with
  | nil => simp [Display.toggleAll]
  | cons c rest ih =>
    obtain ⟨x, y⟩ := c
    rw [List.nodup_cons] at h
    rw [Display.toggleAll, ih h.2, Display.cell_toggle]
    by_cases hc : a = x ∧ b = y
    · obtain ⟨rfl, rfl⟩ := hc; simp [h.1]
    · have : (a, b) ≠ (x, y) := fun e => hc (Prod.mk.inj e)
      simp [hc, this]

/-- Toggling distinct cells turns one off exactly when one of them was on (R196). -/
theorem Display.hit_toggleAll {cells : List (Fin 64 × Fin 32)} (h : cells.Nodup) (d : Display) :
    (Display.toggleAll cells d).2 = true ↔ ∃ a b, (a, b) ∈ cells ∧ d.cell a b = true := by
  induction cells generalizing d with
  | nil => simp [Display.toggleAll]
  | cons c rest ih =>
    obtain ⟨x, y⟩ := c
    rw [List.nodup_cons] at h
    have hne : ∀ a b, (a, b) ∈ rest → (d.toggle x y).1.cell a b = d.cell a b := by
      intro a b hm
      rw [Display.cell_toggle, if_neg]
      rintro ⟨rfl, rfl⟩; exact h.1 hm
    have hx : (d.toggle x y).2 = d.cell x y := rfl
    rw [Display.toggleAll, Bool.or_eq_true, ih h.2, hx]
    constructor
    · rintro (hd | ⟨a, b, hm, hd⟩)
      · exact ⟨x, y, by simp, hd⟩
      · exact ⟨a, b, by simp [hm], by rwa [hne a b hm] at hd⟩
    · rintro ⟨a, b, hm, hd⟩
      rcases List.mem_cons.1 hm with e | hm
      · obtain ⟨rfl, rfl⟩ := Prod.mk.inj e; exact .inl hd
      · exact .inr ⟨a, b, hm, by rwa [hne a b hm]⟩

/-- The cells of one sprite row (R196, R197). -/
theorem mem_rowCells (x0 y : Nat) (row : Byte) (a : Fin 64) (b : Fin 32) :
    (a, b) ∈ rowCells x0 y row ↔
      ∃ c < 8, row.getLsbD (7 - c) = true ∧ a.val = (x0 + c) % 64 ∧ b.val = y % 32 := by
  simp only [rowCells, List.mem_filterMap, List.mem_range, Option.ite_none_right_eq_some, Option.some.injEq,
    Prod.mk.injEq, Fin.ext_iff, Fin.val_ofNat]
  constructor
  · rintro ⟨c, hc, hb, h1, h2⟩; exact ⟨c, hc, hb, h1.symm, h2.symm⟩
  · rintro ⟨c, hc, hb, h1, h2⟩; exact ⟨c, hc, hb, h1.symm, h2.symm⟩

/-- The cells of one sprite row are distinct: a row is 8 wide and the grid 64. -/
theorem rowCells_nodup (x0 y : Nat) (row : Byte) : (rowCells x0 y row).Nodup := by
  unfold rowCells List.Nodup
  rw [List.pairwise_filterMap]
  refine List.Pairwise.imp_of_mem ?_ (List.nodup_range (n := 8))
  intro c c' hc hc' hne p hp q hq
  simp only [List.mem_range] at hc hc'
  simp only [Option.ite_none_right_eq_some, Option.some.injEq] at hp hq
  rw [← hp.2, ← hq.2]
  intro e
  have e1 := congrArg (fun z : Fin 64 × Fin 32 => z.1.val) e
  simp only [Fin.val_ofNat] at e1
  omega

/-- The cells of a sprite: the set bits of its rows, each coordinate wrapped on its own (R196). -/
theorem mem_spriteCells (rows : List Byte) (x0 y0 : Nat) (a : Fin 64) (b : Fin 32) :
    (a, b) ∈ spriteCells x0 y0 rows ↔
      ∃ (r : Nat) (hr : r < rows.length), ∃ c < 8, rows[r].getLsbD (7 - c) = true ∧ a.val = (x0 + c) % 64 ∧
        b.val = (y0 + r) % 32 := by
  induction rows generalizing y0 with
  | nil => simp [spriteCells]
  | cons row rest ih =>
    rw [spriteCells, List.mem_append, mem_rowCells, ih]
    constructor
    · rintro (⟨c, hc, hb, h1, h2⟩ | ⟨r, hr, c, hc, hb, h1, h2⟩)
      · exact ⟨0, by simp, c, hc, hb, h1, h2⟩
      · exact ⟨r + 1, by simpa using hr, c, hc, by simpa using hb, h1, by omega⟩
    · rintro ⟨r, hr, c, hc, hb, h1, h2⟩
      cases r with
      | zero => exact .inl ⟨c, hc, by simpa using hb, h1, h2⟩
      | succ r => exact .inr ⟨r, by simpa using hr, c, hc, by simpa using hb, h1, by omega⟩

/-- The cells of a sprite of at most 32 rows are distinct, so no cell is toggled twice by one DRW (R196). -/
theorem spriteCells_nodup (rows : List Byte) (x0 y0 : Nat) (h : rows.length ≤ 32) : (spriteCells x0 y0 rows).Nodup := by
  induction rows generalizing y0 with
  | nil => exact List.nodup_nil
  | cons row rest ih =>
    simp only [List.length_cons] at h
    rw [spriteCells, List.nodup_append]
    refine ⟨rowCells_nodup x0 y0 row, ih (y0 + 1) (by omega), ?_⟩
    rintro ⟨a, b⟩ h1 ⟨a', b'⟩ h2 e
    obtain ⟨rfl, rfl⟩ := Prod.mk.inj e
    obtain ⟨c, _, _, _, hb⟩ := (mem_rowCells _ _ _ _ _).1 h1
    obtain ⟨r, hr, c', _, _, _, hb'⟩ := (mem_spriteCells _ _ _ _ _).1 h2
    omega

/-- The cells DRW toggles are those `Drawn` names (R196). -/
theorem mem_drawnCells (s : State) (x y : Reg) (n : BitVec 4) (a : Fin 64) (b : Fin 32) :
    (a, b) ∈ s.drawnCells x y n ↔ Drawn s x y n a b := by
  simp only [State.drawnCells, mem_spriteCells, State.spriteRows, Memory.length_readBlock, Memory.getElem_readBlock, Drawn]
  constructor
  · rintro ⟨r, hr, c, hc, rest⟩; exact ⟨r, c, hr, hc, rest⟩
  · rintro ⟨r, c, hr, hc, rest⟩; exact ⟨r, hr, c, hc, rest⟩

/-- The cells DRW toggles are distinct: at most 15 rows. -/
theorem drawnCells_nodup (s : State) (x y : Reg) (n : BitVec 4) : (s.drawnCells x y n).Nodup :=
  spriteCells_nodup _ _ _ (by simp only [State.spriteRows, Memory.length_readBlock]; omega)

/-- Every cell of the cleared grid is off (R26). -/
theorem Display.cell_cleared (a : Fin 64) (b : Fin 32) : Display.cleared.cell a b = false := by
  simp [Display.cleared, Display.cell, Vector.get_eq_getElem]

end Sys2Proof.Machine
end

