-- ==== Sys2Proof/Laws/Encoding.lean ====
section
/-! SUPPORT. Opcodes and their fields as numbers, and the fields of an encoded opcode (rules R71, R72). -/

namespace Sys2Proof

theorem toNat_append_eq {m n : Nat} (a : BitVec m) (b : BitVec n) : (a ++ b).toNat = a.toNat * 2 ^ n + b.toNat := by
  rw [BitVec.toNat_append, Nat.shiftLeft_eq, Nat.mul_comm, ← Nat.two_pow_add_eq_or_of_lt b.isLt]

theorem opFam_toNat (op : Word) : (opFam op).toNat = op.toNat / 4096 := by
  have := op.isLt
  simp only [opFam, BitVec.extractLsb'_toNat, Nat.shiftRight_eq_div_pow]; omega

theorem opX_val (op : Word) : (opX op).val = op.toNat / 256 % 16 := by
  change (op.extractLsb' 8 4).toNat = _
  simp only [BitVec.extractLsb'_toNat, Nat.shiftRight_eq_div_pow]

theorem opY_val (op : Word) : (opY op).val = op.toNat / 16 % 16 := by
  change (op.extractLsb' 4 4).toNat = _
  simp only [BitVec.extractLsb'_toNat, Nat.shiftRight_eq_div_pow]

theorem opN_toNat (op : Word) : (opN op).toNat = op.toNat % 16 := by
  simp only [opN, BitVec.extractLsb'_toNat, Nat.shiftRight_zero]

theorem opKk_toNat (op : Word) : (opKk op).toNat = op.toNat % 256 := by
  simp only [opKk, BitVec.extractLsb'_toNat, Nat.shiftRight_zero]

theorem opNnn_toNat (op : Word) : (opNnn op).toNat = op.toNat % 4096 := by
  simp only [opNnn, BitVec.extractLsb'_toNat, Nat.shiftRight_zero]

theorem encNnn_toNat (f : BitVec 4) (nnn : BitVec 12) : (encNnn f nnn).toNat = f.toNat * 4096 + nnn.toNat :=
  toNat_append_eq f nnn

theorem encXKk_toNat (f : BitVec 4) (x : Reg) (kk : Byte) :
    (encXKk f x kk).toNat = f.toNat * 4096 + (x.val * 256 + kk.toNat) :=
  (toNat_append_eq f (regBits x ++ kk)).trans (congrArg _ (toNat_append_eq (regBits x) kk))

theorem encXYN_toNat (f : BitVec 4) (x y : Reg) (n : BitVec 4) :
    (encXYN f x y n).toNat = f.toNat * 4096 + (x.val * 256 + (y.val * 16 + n.toNat)) :=
  (toNat_append_eq f (regBits x ++ (regBits y ++ n))).trans
    (congrArg _ ((toNat_append_eq (regBits x) (regBits y ++ n)).trans (congrArg _ (toNat_append_eq (regBits y) n))))

section
variable (f n : BitVec 4) (nnn : BitVec 12) (x y : Reg) (kk : Byte)

@[simp] theorem opFam_encNnn : opFam (encNnn f nnn) = f :=
  BitVec.eq_of_toNat_eq (by rw [opFam_toNat, encNnn_toNat]; omega)
@[simp] theorem opNnn_encNnn : opNnn (encNnn f nnn) = nnn :=
  BitVec.eq_of_toNat_eq (by rw [opNnn_toNat, encNnn_toNat]; omega)
@[simp] theorem opFam_encXKk : opFam (encXKk f x kk) = f :=
  BitVec.eq_of_toNat_eq (by rw [opFam_toNat, encXKk_toNat]; omega)
@[simp] theorem opX_encXKk : opX (encXKk f x kk) = x :=
  Fin.ext (by rw [opX_val, encXKk_toNat]; omega)
@[simp] theorem opKk_encXKk : opKk (encXKk f x kk) = kk :=
  BitVec.eq_of_toNat_eq (by rw [opKk_toNat, encXKk_toNat]; omega)
@[simp] theorem opFam_encXYN : opFam (encXYN f x y n) = f :=
  BitVec.eq_of_toNat_eq (by rw [opFam_toNat, encXYN_toNat]; omega)
@[simp] theorem opX_encXYN : opX (encXYN f x y n) = x :=
  Fin.ext (by rw [opX_val, encXYN_toNat]; omega)
@[simp] theorem opY_encXYN : opY (encXYN f x y n) = y :=
  Fin.ext (by rw [opY_val, encXYN_toNat]; omega)
@[simp] theorem opN_encXYN : opN (encXYN f x y n) = n :=
  BitVec.eq_of_toNat_eq (by rw [opN_toNat, encXYN_toNat]; omega)

end

/-! Masking an encoded opcode with the mask of its row (R75). -/

theorem regBits_and_zero (x : Reg) : regBits x &&& 0#4 = regBits 0 := by simp; rfl

theorem and_ones4 (f : BitVec 4) : f &&& 0xF#4 = f := BitVec.and_allOnes

theorem and_ones8 (kk : Byte) : kk &&& 0xFF#8 = kk := BitVec.and_allOnes

theorem encNnn_and_fam (f : BitVec 4) (nnn : BitVec 12) : encNnn f nnn &&& 0xF000 = encNnn f 0 := by
  change (f ++ nnn) &&& (0xF#4 ++ 0#12) = f ++ 0#12
  rw [BitVec.and_append, and_ones4, BitVec.and_zero]

theorem encXKk_and_fam (f : BitVec 4) (x : Reg) (kk : Byte) : encXKk f x kk &&& 0xF000 = encXKk f 0 0 := by
  change (f ++ (regBits x ++ kk)) &&& (0xF#4 ++ (0#4 ++ 0#8)) = f ++ (regBits 0 ++ 0#8)
  rw [BitVec.and_append, BitVec.and_append, and_ones4, regBits_and_zero, BitVec.and_zero]

theorem encXKk_and_famKk (f : BitVec 4) (x : Reg) (kk : Byte) : encXKk f x kk &&& 0xF0FF = encXKk f 0 kk := by
  change (f ++ (regBits x ++ kk)) &&& (0xF#4 ++ (0#4 ++ 0xFF#8)) = f ++ (regBits 0 ++ kk)
  rw [BitVec.and_append, BitVec.and_append, and_ones4, regBits_and_zero, and_ones8]

theorem encXYN_and_fam (f : BitVec 4) (x y : Reg) (n : BitVec 4) : encXYN f x y n &&& 0xF000 = encXYN f 0 0 0 := by
  change (f ++ (regBits x ++ (regBits y ++ n))) &&& (0xF#4 ++ (0#4 ++ (0#4 ++ 0#4))) =
    f ++ (regBits 0 ++ (regBits 0 ++ 0#4))
  rw [BitVec.and_append, BitVec.and_append, BitVec.and_append, and_ones4, regBits_and_zero, regBits_and_zero,
    BitVec.and_zero]

theorem encXYN_and_famN (f : BitVec 4) (x y : Reg) (n : BitVec 4) : encXYN f x y n &&& 0xF00F = encXYN f 0 0 n := by
  change (f ++ (regBits x ++ (regBits y ++ n))) &&& (0xF#4 ++ (0#4 ++ (0#4 ++ 0xF#4))) =
    f ++ (regBits 0 ++ (regBits 0 ++ n))
  rw [BitVec.and_append, BitVec.and_append, BitVec.and_append, and_ones4, and_ones4, regBits_and_zero,
    regBits_and_zero]

/-! An opcode from its fields (R71). -/

theorem encNnn_fields (op : Word) : encNnn (opFam op) (opNnn op) = op :=
  BitVec.eq_of_toNat_eq (by rw [encNnn_toNat, opFam_toNat, opNnn_toNat]; omega)

theorem encXKk_fields (op : Word) : encXKk (opFam op) (opX op) (opKk op) = op :=
  BitVec.eq_of_toNat_eq (by rw [encXKk_toNat, opFam_toNat, opX_val, opKk_toNat]; omega)

theorem encXYN_fields (op : Word) : encXYN (opFam op) (opX op) (opY op) (opN op) = op :=
  BitVec.eq_of_toNat_eq (by rw [encXYN_toNat, opFam_toNat, opX_val, opY_val, opN_toNat]; omega)

/-- An opcode is its two bytes, high byte first (R45). -/
theorem opcodeOf_bytes (op : Word) : opcodeOf (highByte op) (lowByte op) = op := by
  apply BitVec.eq_of_toNat_eq
  have h := toNat_append_eq (highByte op) (lowByte op)
  simp only [highByte, lowByte, BitVec.extractLsb'_toNat, Nat.shiftRight_eq_div_pow] at h
  have hl := op.isLt
  exact h.trans (by omega)

end Sys2Proof
end

