-- ==== Sys2Proof/Laws/PerInstr.lean ====
section
/-! SUPPORT. Statements about every instruction as syntax, one lemma per constructor. -/

namespace Sys2Proof.Laws

/-- The opcode of an instruction matches the instruction's own row of the opcode map (R75). -/
def EncodesItsRow.Statement (i : Instr) : Prop := encode i &&& rowMask i = rowMatch i

theorem EncodesItsRow.cls : EncodesItsRow.Statement .cls := rfl
theorem EncodesItsRow.ret : EncodesItsRow.Statement .ret := rfl
theorem EncodesItsRow.jp (nnn : BitVec 12) : EncodesItsRow.Statement (.jp nnn) := encNnn_and_fam _ _
theorem EncodesItsRow.call (nnn : BitVec 12) : EncodesItsRow.Statement (.call nnn) := encNnn_and_fam _ _
theorem EncodesItsRow.seVxKk (x : Reg) (kk : Byte) : EncodesItsRow.Statement (.seVxKk x kk) := encXKk_and_fam _ _ _
theorem EncodesItsRow.sneVxKk (x : Reg) (kk : Byte) : EncodesItsRow.Statement (.sneVxKk x kk) := encXKk_and_fam _ _ _
theorem EncodesItsRow.seVxVy (x y : Reg) (n : BitVec 4) : EncodesItsRow.Statement (.seVxVy x y n) := encXYN_and_fam _ _ _ _
theorem EncodesItsRow.ldVxKk (x : Reg) (kk : Byte) : EncodesItsRow.Statement (.ldVxKk x kk) := encXKk_and_fam _ _ _
theorem EncodesItsRow.addVxKk (x : Reg) (kk : Byte) : EncodesItsRow.Statement (.addVxKk x kk) := encXKk_and_fam _ _ _
theorem EncodesItsRow.ldVxVy (x y : Reg) : EncodesItsRow.Statement (.ldVxVy x y) := encXYN_and_famN _ _ _ _
theorem EncodesItsRow.orVxVy (x y : Reg) : EncodesItsRow.Statement (.orVxVy x y) := encXYN_and_famN _ _ _ _
theorem EncodesItsRow.andVxVy (x y : Reg) : EncodesItsRow.Statement (.andVxVy x y) := encXYN_and_famN _ _ _ _
theorem EncodesItsRow.xorVxVy (x y : Reg) : EncodesItsRow.Statement (.xorVxVy x y) := encXYN_and_famN _ _ _ _
theorem EncodesItsRow.addVxVy (x y : Reg) : EncodesItsRow.Statement (.addVxVy x y) := encXYN_and_famN _ _ _ _
theorem EncodesItsRow.subVxVy (x y : Reg) : EncodesItsRow.Statement (.subVxVy x y) := encXYN_and_famN _ _ _ _
theorem EncodesItsRow.shrVx (x y : Reg) : EncodesItsRow.Statement (.shrVx x y) := encXYN_and_famN _ _ _ _
theorem EncodesItsRow.subnVxVy (x y : Reg) : EncodesItsRow.Statement (.subnVxVy x y) := encXYN_and_famN _ _ _ _
theorem EncodesItsRow.shlVx (x y : Reg) : EncodesItsRow.Statement (.shlVx x y) := encXYN_and_famN _ _ _ _
theorem EncodesItsRow.sneVxVy (x y : Reg) (n : BitVec 4) : EncodesItsRow.Statement (.sneVxVy x y n) := encXYN_and_fam _ _ _ _
theorem EncodesItsRow.ldINnn (nnn : BitVec 12) : EncodesItsRow.Statement (.ldINnn nnn) := encNnn_and_fam _ _
theorem EncodesItsRow.jpV0Nnn (nnn : BitVec 12) : EncodesItsRow.Statement (.jpV0Nnn nnn) := encNnn_and_fam _ _
theorem EncodesItsRow.rndVxKk (x : Reg) (kk : Byte) : EncodesItsRow.Statement (.rndVxKk x kk) := encXKk_and_fam _ _ _
theorem EncodesItsRow.drwVxVyN (x y : Reg) (n : BitVec 4) : EncodesItsRow.Statement (.drwVxVyN x y n) := encXYN_and_fam _ _ _ _
theorem EncodesItsRow.skpVx (x : Reg) : EncodesItsRow.Statement (.skpVx x) := encXKk_and_famKk _ _ _
theorem EncodesItsRow.sknpVx (x : Reg) : EncodesItsRow.Statement (.sknpVx x) := encXKk_and_famKk _ _ _
theorem EncodesItsRow.ldVxDt (x : Reg) : EncodesItsRow.Statement (.ldVxDt x) := encXKk_and_famKk _ _ _
theorem EncodesItsRow.ldVxK (x : Reg) : EncodesItsRow.Statement (.ldVxK x) := encXKk_and_famKk _ _ _
theorem EncodesItsRow.ldDtVx (x : Reg) : EncodesItsRow.Statement (.ldDtVx x) := encXKk_and_famKk _ _ _
theorem EncodesItsRow.ldStVx (x : Reg) : EncodesItsRow.Statement (.ldStVx x) := encXKk_and_famKk _ _ _
theorem EncodesItsRow.addIVx (x : Reg) : EncodesItsRow.Statement (.addIVx x) := encXKk_and_famKk _ _ _
theorem EncodesItsRow.ldFVx (x : Reg) : EncodesItsRow.Statement (.ldFVx x) := encXKk_and_famKk _ _ _
theorem EncodesItsRow.ldBVx (x : Reg) : EncodesItsRow.Statement (.ldBVx x) := encXKk_and_famKk _ _ _
theorem EncodesItsRow.ldMemVx (x : Reg) : EncodesItsRow.Statement (.ldMemVx x) := encXKk_and_famKk _ _ _
theorem EncodesItsRow.ldVxMem (x : Reg) : EncodesItsRow.Statement (.ldVxMem x) := encXKk_and_famKk _ _ _

end Sys2Proof.Laws
end

