-- ==== Sys2Proof/Tests/Slice0.lean ====
section
/-! SUPPORT. Tests, each about one decoding, one check or one step, with results from the spec's vectors (95_test_vectors.md)
or worked out by hand from its rules; and for each obligation with hypotheses the witnesses that they can be met. -/

namespace Sys2Proof.Tests

open Sys2Proof Sys2Proof.Machine

/-! ## Helpers -/

/-- The reset state with some registers set. -/
def withRegs (l : List (Reg × Byte)) : State := l.foldl (fun s p => s.writeV p.1 p.2) State.reset

/-- The reset state with bytes written at an address. -/
def withMem (base : Nat) (bytes : List Byte) : State := { State.reset with mem := State.reset.mem.writeBlock base bytes }

/-- An opcode placed where the state fetches. -/
def place (op : Word) (s : State) : State := s.withFetchWord 16 op.toNat

/-- The state after one step. -/
def after (s : State) : State :=
  match step s with
  | .next t => t
  | .fault _ => s
  | .refused _ => s

/-- The state after one step on an opcode placed at PC. -/
def stepOn (op : Word) (s : State) : State := after (place op s)

/-- The grid with exactly these cells, all different, on: column and row. -/
def gridOf (cells : List (Fin 64 × Fin 32)) : Display := (Display.toggleAll cells Display.cleared).1

/-! ## Well-formedness: the canonical forms of R77, and an ill-formed term for each check -/

theorem test_wf_se : (Instr.seVxVy 1 2 0).wellFormed = true ∧ (Instr.seVxVy 1 2 0xB).wellFormed = false := by decide
theorem test_wf_sne : (Instr.sneVxVy 1 2 0).wellFormed = true ∧ (Instr.sneVxVy 1 2 1).wellFormed = false := by decide
theorem test_wf_shr : (Instr.shrVx 1 0).wellFormed = true ∧ (Instr.shrVx 1 2).wellFormed = false := by decide
theorem test_wf_shl : (Instr.shlVx 1 0).wellFormed = true ∧ (Instr.shlVx 1 15).wellFormed = false := by decide
theorem test_wf_others : (Instr.drwVxVyN 15 15 0).wellFormed = true := by decide

/-! ## Decoding: one word per row of R75, its bits written out nibble by nibble, and its two bytes -/

theorem test_decode_cls : decodeBytes [0x00, 0xE0] = .ok (.cls, []) := by decide
theorem test_decode_ret : decodeBytes [0x00, 0xEE] = .ok (.ret, []) := by decide
theorem test_decode_jp : decodeBytes [0x1A, 0xBC] = .ok (.jp 0xABC, []) := by decide
theorem test_decode_call : decodeBytes [0x2D, 0xEF] = .ok (.call 0xDEF, []) := by decide
theorem test_decode_se_imm : decodeBytes [0x3A, 0x5C] = .ok (.seVxKk 10 0x5C, []) := by decide
theorem test_decode_sne_imm : decodeBytes [0x4B, 0x6D] = .ok (.sneVxKk 11 0x6D, []) := by decide
theorem test_decode_se_reg : decodeBytes [0x5A, 0xB7] = .ok (.seVxVy 10 11 7, []) := by decide
theorem test_decode_ld_imm : decodeBytes [0x6A, 0x2F] = .ok (.ldVxKk 10 0x2F, []) := by decide
theorem test_decode_add_imm : decodeBytes [0x71, 0xFE] = .ok (.addVxKk 1 0xFE, []) := by decide
theorem test_decode_ld_reg : decodeBytes [0x8C, 0xD0] = .ok (.ldVxVy 12 13, []) := by decide
theorem test_decode_or : decodeBytes [0x8C, 0xD1] = .ok (.orVxVy 12 13, []) := by decide
theorem test_decode_and : decodeBytes [0x8C, 0xD2] = .ok (.andVxVy 12 13, []) := by decide
theorem test_decode_xor : decodeBytes [0x8C, 0xD3] = .ok (.xorVxVy 12 13, []) := by decide
theorem test_decode_add_reg : decodeBytes [0x8C, 0xD4] = .ok (.addVxVy 12 13, []) := by decide
theorem test_decode_sub : decodeBytes [0x8C, 0xD5] = .ok (.subVxVy 12 13, []) := by decide
theorem test_decode_shr : decodeBytes [0x8C, 0xD6] = .ok (.shrVx 12 13, []) := by decide
theorem test_decode_subn : decodeBytes [0x8C, 0xD7] = .ok (.subnVxVy 12 13, []) := by decide
theorem test_decode_shl : decodeBytes [0x8A, 0xBE] = .ok (.shlVx 10 11, []) := by decide
theorem test_decode_sne_reg : decodeBytes [0x9A, 0xB1] = .ok (.sneVxVy 10 11 1, []) := by decide
theorem test_decode_ld_i : decodeBytes [0xA2, 0xF0] = .ok (.ldINnn 0x2F0, []) := by decide
theorem test_decode_jp_v0 : decodeBytes [0xB3, 0x01] = .ok (.jpV0Nnn 0x301, []) := by decide
theorem test_decode_rnd : decodeBytes [0xC3, 0x0F] = .ok (.rndVxKk 3 0x0F, []) := by decide
theorem test_decode_drw : decodeBytes [0xDE, 0x7F] = .ok (.drwVxVyN 14 7 15, []) := by decide
theorem test_decode_skp : decodeBytes [0xEA, 0x9E] = .ok (.skpVx 10, []) := by decide
theorem test_decode_sknp : decodeBytes [0xE5, 0xA1] = .ok (.sknpVx 5, []) := by decide
theorem test_decode_ld_vx_dt : decodeBytes [0xFA, 0x07] = .ok (.ldVxDt 10, []) := by decide
theorem test_decode_ld_vx_k : decodeBytes [0xF3, 0x0A] = .ok (.ldVxK 3, []) := by decide
theorem test_decode_ld_dt : decodeBytes [0xF1, 0x15] = .ok (.ldDtVx 1, []) := by decide
theorem test_decode_ld_st : decodeBytes [0xF2, 0x18] = .ok (.ldStVx 2, []) := by decide
theorem test_decode_add_i : decodeBytes [0xF4, 0x1E] = .ok (.addIVx 4, []) := by decide
theorem test_decode_ld_f : decodeBytes [0xF6, 0x29] = .ok (.ldFVx 6, []) := by decide
theorem test_decode_ld_b : decodeBytes [0xF7, 0x33] = .ok (.ldBVx 7, []) := by decide
theorem test_decode_ld_mem : decodeBytes [0xF8, 0x55] = .ok (.ldMemVx 8, []) := by decide
theorem test_decode_ld_from_mem : decodeBytes [0xFA, 0x65] = .ok (.ldVxMem 10, []) := by decide
theorem test_unknown_fam0 : decode 0x0000 = none ∧ decode 0x00E1 = none ∧ decode 0x01E0 = none := by decide
theorem test_unknown_fam8 : decode 0x8AB8 = none ∧ decode 0x8ABF = none ∧ decode 0x8008 = none := by decide
theorem test_unknown_famE : decode 0xEA00 = none ∧ decode 0xE49F = none := by decide
theorem test_unknown_famF :
    decode 0xFA75 = none ∧ decode 0xFA85 = none ∧ decode 0xFA30 = none ∧ decode 0xFA02 = none ∧ decode 0xF1FF = none := by
  decide
theorem test_decode_truncated : decodeBytes [0x12] = .error .truncated := by decide
theorem test_table_word : decodeTableWord 16 0x8124 = some (.addVxVy 1 2) := by decide

/-! ## Steps: the vectors of 95_test_vectors.md, named in each comment, the instruction at 0x200 -/

/-- The host's machine is this one. -/
theorem test_core : Sys2Proof.core.step = step ∧ Sys2Proof.core.reset = State.reset := ⟨rfl, rfl⟩
/-- F1. -/
theorem test_jp : (stepOn 0x1ABC State.reset).pc = 0x0ABC := by decide
/-- F3, second step. -/
theorem test_jp_top :
    (after (State.reset.setPc 0xFFF)).run = .halted .outOfRange ∧ (after (State.reset.setPc 0xFFF)).haltInfo = 0x1000 :=
  by decide
/-- F4. -/
theorem test_call :
    (stepOn 0x2210 (State.reset.setPc 0x204)).stack = [0x0206] ∧ (stepOn 0x2210 (State.reset.setPc 0x204)).pc = 0x0210 :=
  by decide
/-- The reset state with 16 entries on the stack. -/
def fullStack : State := { State.reset with stack := List.replicate 16 0x0206 }

/-- F5. -/
theorem test_call_full :
    stepOn 0x2300 fullStack =
      { place 0x2300 fullStack with pc := 0x0202, run := .halted .stackOverflow, haltInfo := 0x2300 } :=
  by decide
/-- The reset state with the return address 0x0206 on the stack. -/
def oneCall : State := { State.reset with stack := [0x0206] }

/-- F6. -/
theorem test_ret : (stepOn 0x00EE oneCall).pc = 0x0206 ∧ (stepOn 0x00EE oneCall).stack = [] := by decide
/-- F7. -/
theorem test_ret_empty :
    stepOn 0x00EE State.reset =
      { place 0x00EE State.reset with pc := 0x0202, run := .halted .stackUnderflow, haltInfo := 0x00EE } :=
  by decide
/-- F8, F9. -/
theorem test_se_imm :
    (stepOn 0x3310 (withRegs [(3, 0x10)])).pc = 0x204 ∧ (stepOn 0x3310 (withRegs [(3, 0x11)])).pc = 0x202 :=
  by decide
/-- F10, F11. -/
theorem test_sne_imm :
    (stepOn 0x4310 (withRegs [(3, 0x10)])).pc = 0x202 ∧ (stepOn 0x4310 (withRegs [(3, 0x11)])).pc = 0x204 :=
  by decide
/-- F13, F14. -/
theorem test_se_reg :
    (stepOn 0x512B (withRegs [(1, 7), (2, 7)])).pc = 0x204 ∧ (stepOn 0x5120 (withRegs [(1, 7), (2, 8)])).pc = 0x202 :=
  by decide
/-- F15, F16. -/
theorem test_sne_reg :
    (stepOn 0x9120 (withRegs [(1, 7), (2, 8)])).pc = 0x204 ∧ (stepOn 0x9440 (withRegs [(4, 9)])).pc = 0x202 :=
  by decide
/-- F17. -/
theorem test_skip_past_the_top : (stepOn 0x3000 (State.reset.setPc 0xFFC)).pc = 0x1000 := by decide
/-- L1. -/
theorem test_ld_imm : (stepOn 0x6A2F State.reset).readV 10 = 0x2F := by decide
/-- L3. -/
theorem test_add_imm :
    (stepOn 0x7105 (withRegs [(1, 0xFE)])).readV 1 = 0x03 ∧ (stepOn 0x7105 (withRegs [(1, 0xFE)])).readV 15 = 0 :=
  by decide
/-- L6. -/
theorem test_add_imm_vf : (stepOn 0x7F02 (withRegs [(15, 0xFF)])).readV 15 = 0x01 := by decide
/-- L7. -/
theorem test_ld_reg : (stepOn 0x8120 (withRegs [(2, 0x44)])).readV 1 = 0x44 := by decide
/-- L8. -/
theorem test_or :
    (stepOn 0x8121 (withRegs [(1, 0xF0), (2, 0x0F), (15, 1)])).v = (withRegs [(1, 0xFF), (2, 0x0F), (15, 1)]).v :=
  by decide
/-- L9. -/
theorem test_and : (stepOn 0x8122 (withRegs [(1, 0xF3), (2, 0x3C)])).readV 1 = 0x30 := by decide
/-- L10, L11. -/
theorem test_xor :
    (stepOn 0x8123 (withRegs [(1, 0xF3), (2, 0x3C)])).readV 1 = 0xCF ∧ (stepOn 0x8553 (withRegs [(5, 0x77)])).readV 5 = 0 :=
  by decide
/-- S1, A3. -/
theorem test_add_reg :
    (stepOn 0x8124 (withRegs [(1, 0xC8), (2, 0x64)])).v = (withRegs [(1, 0x2C), (2, 0x64), (15, 1)]).v ∧
      (stepOn 0x8124 (withRegs [(1, 0xFF), (2, 0x01)])).v = (withRegs [(1, 0x00), (2, 0x01), (15, 1)]).v :=
  by decide
/-- A5, A6. -/
theorem test_add_reg_vf :
    (stepOn 0x81F4 (withRegs [(1, 0x10), (15, 1)])).v = (withRegs [(1, 0x11)]).v ∧
      (stepOn 0x8F14 (withRegs [(1, 0x03), (15, 5)])).readV 15 = 0 :=
  by decide
/-- A8, A10. -/
theorem test_sub :
    (stepOn 0x8125 (withRegs [(1, 0x10), (2, 0x20)])).v = (withRegs [(1, 0xF0), (2, 0x20)]).v ∧
      (stepOn 0x8125 (withRegs [(1, 0x33), (2, 0x33)])).v = (withRegs [(2, 0x33)]).v :=
  by decide
/-- A9, A12. -/
theorem test_sub_vf :
    (stepOn 0x8125 (withRegs [(1, 0x20), (2, 0x10)])).v = (withRegs [(1, 0x10), (2, 0x10), (15, 1)]).v ∧
      (stepOn 0x8F15 (withRegs [(1, 0x04), (15, 9)])).readV 15 = 1 :=
  by decide
/-- A13. -/
theorem test_shr :
    (stepOn 0x8126 (withRegs [(1, 0x05), (2, 0xAA)])).v = (withRegs [(1, 0x02), (2, 0xAA), (15, 1)]).v :=
  by decide
/-- A16, A17. -/
theorem test_shr_vf :
    (stepOn 0x8F06 (withRegs [(15, 3)])).readV 15 = 1 ∧ (stepOn 0x8F06 (withRegs [(15, 2)])).readV 15 = 0 :=
  by decide
/-- A18, A19. -/
theorem test_subn :
    (stepOn 0x8127 (withRegs [(1, 0x10), (2, 0x20)])).v = (withRegs [(1, 0x10), (2, 0x20), (15, 1)]).v ∧
      (stepOn 0x8127 (withRegs [(1, 0x20), (2, 0x10)])).v = (withRegs [(1, 0xF0), (2, 0x10)]).v :=
  by decide
/-- A21, A22. -/
theorem test_shl :
    (stepOn 0x810E (withRegs [(1, 0x81)])).v = (withRegs [(1, 0x02), (15, 1)]).v ∧
      (stepOn 0x810E (withRegs [(1, 0x40)])).v = (withRegs [(1, 0x80)]).v :=
  by decide
/-- A24, A25. -/
theorem test_shl_vf :
    (stepOn 0x8F0E (withRegs [(15, 0x80)])).readV 15 = 1 ∧ (stepOn 0x8F0E (withRegs [(15, 0x7F)])).readV 15 = 0 :=
  by decide
/-- I1. -/
theorem test_ld_i : (stepOn 0xA2F0 State.reset).i = 0x02F0 := by decide
/-- I3, I4. -/
theorem test_add_i :
    (stepOn 0xF21E ((withRegs [(2, 1)]).setI 0x0FFF)).i = 0x1000 ∧ (stepOn 0xF21E ((withRegs [(2, 1)]).setI 0xFFFF)).i = 0 :=
  by decide
/-- I6, I7. -/
theorem test_jp_v0 :
    (stepOn 0xBFFF (withRegs [(0, 0xFF)])).pc = 0x10FE ∧ (stepOn 0xB300 (withRegs [(0, 1), (3, 0x40)])).pc = 0x0301 :=
  by decide
/-- Q1. -/
theorem test_rnd_draw : (State.reset.rndWith 0xA7 3 0x0F).readV 3 = 0x07 := by decide
/-- Q2: whatever byte is drawn, V3 = 0x00, and one byte is consumed. -/
theorem test_rnd_step :
    (stepOn 0xC300 (withRegs [(3, 0xEE)])).readV 3 = 0 ∧ (stepOn 0xC300 (withRegs [(3, 0xEE)])).randDraws = 1 :=
  ⟨(BitVec.and_zero : Config.randByte 0 &&& 0#8 = 0#8), by decide⟩
/-- The reset state with I, V1 and V2 as given and sprite bytes at 0x300. -/
def drawState (i : Word) (v1 v2 : Byte) (sprite : List Byte) : State :=
  (((withMem 0x300 sprite).writeV 1 v1).writeV 2 v2).setI i

/-- W1. -/
theorem test_drw_glyph :
    (stepOn 0xD125 (drawState 0 0 0 [])).disp = gridOf
      [(0, 0), (1, 0), (2, 0), (3, 0), (0, 1), (3, 1), (0, 2), (3, 2), (0, 3), (3, 3), (0, 4), (1, 4), (2, 4), (3, 4)] :=
  by decide
/-- W5, W7. -/
theorem test_drw_wrap_collide :
    (stepOn 0xD121 (drawState 0x300 0xFF 0xFF [0xFF])).disp = gridOf
      [(63, 31), (0, 31), (1, 31), (2, 31), (3, 31), (4, 31), (5, 31), (6, 31)] ∧
      (stepOn 0xD121 ((drawState 0x300 0 0 [0xC0]).toggleCells [(0, 0)])).disp = gridOf [(1, 0)] ∧
      (stepOn 0xD121 ((drawState 0x300 0 0 [0xC0]).toggleCells [(0, 0)])).readV 15 = 1 :=
  by decide
/-- W8. -/
theorem test_drw_out_of_range :
    stepOn 0xD123 (drawState 0xFFE 0 0 []) =
      { place 0xD123 (drawState 0xFFE 0 0 []) with pc := 0x0202, run := .halted .outOfRange, haltInfo := 0x1000 } :=
  by decide
/-- W10. -/
theorem test_cls :
    stepOn 0x00E0 ((withRegs [(15, 1)]).toggleCells [(5, 6), (63, 31)]) =
      { place 0x00E0 (withRegs [(15, 1)]) with pc := 0x0202 } :=
  by decide
/-- K1, K2: the answer, for code 0x0A, decides. -/
theorem test_skp :
    (stepOn 0xE49E (withRegs [(4, 0x0A)])).pc = if Config.keyAnswer 0 0x0A then 0x204 else 0x202 :=
  rfl
/-- K3, K4. -/
theorem test_sknp :
    (stepOn 0xE4A1 (withRegs [(4, 0x0A)])).pc = if Config.keyAnswer 0 0x0A then 0x202 else 0x204 :=
  by
  change (if (!Config.keyAnswer 0 0x0A) = true then (0x204 : Word) else 0x202) = _
  cases Config.keyAnswer 0 0x0A <;> rfl
/-- K5. -/
theorem test_ld_vx_k :
    stepOn 0xF30A (State.reset.setDt 5) =
      { place 0xF30A (State.reset.setDt 5) with pc := 0x0202, run := .waitingForKey 3 } :=
  by decide
/-- K7, K8. -/
theorem test_key_press :
    (State.reset.setRun (.waitingForKey 3)).keyPress 7 = State.reset.writeV 3 7 ∧ State.reset.keyPress 7 = State.reset :=
  by decide
/-- T1. -/
theorem test_ld_vx_dt :
    (stepOn 0xF507 (State.reset.setDt 0x1E)).readV 5 = 0x1E ∧ (stepOn 0xF507 (State.reset.setDt 0x1E)).dt = 0x1D :=
  by decide
/-- T2, T3. -/
theorem test_ld_dt : (stepOn 0xF015 (withRegs [(0, 3)])).dt = 2 ∧ (stepOn 0xF015 State.reset).dt = 0 := by decide
/-- T5. -/
theorem test_ld_st :
    (stepOn 0xF018 (withRegs [(0, 2)])).st = 1 ∧ (stepOn 0xF018 (withRegs [(0, 2)])).soundOn = true :=
  by decide
/-- T6. -/
theorem test_tick_sound_ends :
    (stepOn 0x6000 (State.reset.setSt 1)).st = 0 ∧ (stepOn 0x6000 (State.reset.setSt 1)).soundOn = false :=
  by decide
/-- T7. -/
theorem test_tick_independent :
    (stepOn 0x6000 (State.reset.setDt 0xFF)).dt = 0xFE ∧ (stepOn 0x6000 (State.reset.setDt 0xFF)).st = 0 :=
  by decide
/-- M1, M3. -/
theorem test_ld_f :
    (stepOn 0xF229 (withRegs [(2, 0x0A)])).i = 0x0032 ∧ (stepOn 0xF229 (withRegs [(2, 0xFF)])).i = 0x04FB :=
  by decide
/-- S4, M8. -/
theorem test_ld_b :
    (stepOn 0xF033 ((withRegs [(0, 157)]).setI 0x300)).mem.readBlock 0x300 3 = [1, 5, 7] ∧
      (stepOn 0xF033 ((withRegs [(0, 0x7B)]).setI 0xFFD)).mem.readBlock 0xFFD 3 = [1, 2, 3] :=
  by decide
/-- M7. -/
theorem test_ld_b_out_of_range :
    stepOn 0xF033 ((withRegs [(0, 0x7B)]).setI 0xFFE) =
      { place 0xF033 ((withRegs [(0, 0x7B)]).setI 0xFFE) with
        pc := 0x0202, run := .halted .outOfRange, haltInfo := 0x1000 } :=
  by decide
/-- M9. -/
theorem test_ld_mem :
    (stepOn 0xF255 ((withRegs [(0, 0x11), (1, 0x22), (2, 0x33), (3, 0x44)]).setI 0x400)).mem.readBlock 0x400 4 =
      [0x11, 0x22, 0x33, 0x00] ∧
      (stepOn 0xF255 ((withRegs [(0, 0x11), (1, 0x22), (2, 0x33)]).setI 0x400)).i = 0x400 :=
  by decide
/-- M12. -/
theorem test_ld_mem_out_of_range :
    stepOn 0xFF55 (State.reset.setI 0xFF1) =
      { place 0xFF55 (State.reset.setI 0xFF1) with pc := 0x0202, run := .halted .outOfRange, haltInfo := 0x1000 } :=
  by decide
/-- M10. -/
theorem test_ld_from_mem :
    stepOn 0xF265 (((withMem 0x400 [0x11, 0x22, 0x33]).writeV 3 0x99).setI 0x400) =
      { place 0xF265 (((withMem 0x400 [0x11, 0x22, 0x33]).writeV 3 0x99).setI 0x400) with
        pc := 0x0202, v := (withRegs [(0, 0x11), (1, 0x22), (2, 0x33), (3, 0x99)]).v } :=
  by decide
/-- M14. -/
theorem test_ld_from_mem_out_of_range :
    (stepOn 0xF065 (State.reset.setI 0x1234)).run = .halted .outOfRange ∧
      (stepOn 0xF065 (State.reset.setI 0x1234)).haltInfo = 0x1234 :=
  by decide
/-- X1, T8. -/
theorem test_unknown :
    stepOn 0x8008 (State.reset.setDt 9) =
      { place 0x8008 (State.reset.setDt 9) with pc := 0x0202, run := .halted .unknownOpcode, haltInfo := 0x8008 } :=
  by decide
/-- X2. -/
theorem test_empty_memory :
    after State.reset = { State.reset with pc := 0x0202, run := .halted .unknownOpcode } :=
  by decide
/-- X6, X7. -/
theorem test_fetch_odd_and_last :
    (after ((withMem 0xFFE [0x60, 0x07]).setPc 0xFFE)).pc = 0x1000 ∧
      (after ((withMem 0x200 [0x12, 0x03, 0x00, 0x6B, 0x2A]).setPc 0x203)).readV 11 = 0x2A :=
  by decide
/-- X9, at the last place. -/
theorem test_load_fits : (State.reset.load [0xAA, 0xBB] 0xFFE).mem = [(0xFFE, 0xAA), (0xFFF, 0xBB)] := by decide
/-- X8, with fewer bytes. -/
theorem test_load_overflows :
    State.reset.load [0xAA, 0xBB, 0xCC] 0xFFE =
      { State.reset with run := .halted .memoryOverflow, haltInfo := 0x0FFE } :=
  by decide

/-! ## Witnesses: states and operands that meet the hypotheses of each obligation, each clause at a boundary of its range -/

theorem witness_EncodeOfDecodeIsIdentity : decode 0x8ABE = some (.shlVx 10 11) := by decide

theorem witness_OpcodeMapSelectsOneRowOrNone : decode 0x8ABE = some (.shlVx 10 11) ∧ decode 0x8ABF = none := by decide

/-- The last place an opcode fits, 0xFFE, holding `op`. -/
def lastPlace (op : Word) : State := (withMem 0xFFE (opcodeBytes op)).setPc 0xFFE

theorem witness_StepRunsTheDecodedInstruction :
    (lastPlace 0x6007).run = .running ∧ (lastPlace 0x6007).pc.toNat + 1 < 4096 ∧
      decode ((lastPlace 0x6007).mem.read 4094 ++ (lastPlace 0x6007).mem.read 4095) = some (.ldVxKk 0 7) := by decide

theorem witness_FetchAboveTheTopHalts :
    State.reset.run = .running ∧ 4094 < (State.reset.setPc 4095).pc.toNat ∧ 4094 < (State.reset.setPc 4096).pc.toNat ∧
      4094 < (State.reset.setPc 0xFFFF).pc.toNat := by decide

theorem witness_UnknownOpcodeHalts :
    (lastPlace 0x8008).run = .running ∧ (lastPlace 0x8008).pc.toNat + 1 < 4096 ∧
      decode ((lastPlace 0x8008).mem.read 4094 ++ (lastPlace 0x8008).mem.read 4095) = none := by decide

/-- A state that waits for a key for VF. -/
def waitingState : State := State.reset.setRun (.waitingForKey 15)

/-- A halted state. -/
def haltedState : State := State.reset.raise .unknownOpcode 0x8008

theorem witness_StepsWhileNotRunningChangeNothing : waitingState.run ≠ .running ∧ haltedState.run ≠ .running := by decide

theorem witness_FetchSeesEarlierStores :
    State.reset.mem.wf = true ∧ 14 < (15 : Reg).val ∧ (State.reset.setI 4080).i.toNat + (15 : Reg).val < 4096 ∧
      (State.reset.setI 4093).i.toNat + 2 < 4096 ∧ 0 + 1 < [0xAA, 0xBB].length ∧ 4094 + [0xAA, 0xBB].length ≤ 4096 := by
  decide

theorem witness_OneTickPerExecutedInstruction :
    (∃ t, step (place 0xF015 (withRegs [(0, 3)])) = .next t ∧ t.dt = 2) ∧
      (∃ t, step (place 0xF30A (State.reset.setDt 5)) = .next t ∧ t.dt = 5) ∧
      (∃ t, step (waitingState.setDt 5) = .next t ∧ t.dt = 5) :=
  ⟨⟨_, rfl, by decide⟩, ⟨_, rfl, by decide⟩, ⟨_, rfl, by decide⟩⟩

theorem witness_CallPushesOrOverflows :
    { State.reset with stack := List.replicate 15 0x206 }.stack.length < 16 ∧ fullStack.stack.length = 16 := by decide

theorem witness_RetPopsOrUnderflows : oneCall.stack = [] ++ [0x0206] ∧ State.reset.stack = [] := ⟨rfl, rfl⟩

/-- The reset state with 15 entries on the stack. -/
def nearlyFull : State := { State.reset with stack := List.replicate 15 0x206 }

theorem witness_CallThenRetReturns :
    nearlyFull.stack.length < 16 ∧ ∃ t, exec (.call 0x300) nearlyFull = .next t ∧ (t.writeV 3 9).stack = t.stack :=
  ⟨by decide, _, rfl, rfl⟩

/-- For the clauses about x ≠ 15 of the flagged arithmetic statements. -/
theorem witness_flagged_arithmetic : (14 : Reg) ≠ Reg.vF := by decide

theorem witness_OnlyListedInstructionsWriteVF :
    (∃ t, exec (.addVxVy 15 1) (withRegs [(15, 0xFF), (1, 2)]) = .next t ∧ t.readV Reg.vF = 1) ∧
      (∃ t, exec (.drwVxVyN 0 1 1) (State.reset.setI 0xFFF) = .next t ∧ t.readV Reg.vF = 0) ∧
      (∃ t, exec (.drwVxVyN 0 1 2) (withRegs [(15, 7)] |>.setI 0xFFF) = .next t ∧ t.run = .halted .outOfRange) ∧
      (∃ t, exec (.ldVxMem 14) (withRegs [(15, 7)]) = .next t ∧ (14 : Reg) ≠ Reg.vF) ∧
      (∃ t, exec .cls (withRegs [(15, 7)]) = .next t ∧ t.v = (withRegs [(15, 7)]).v) :=
  ⟨⟨_, rfl, by decide⟩, ⟨_, rfl, by decide⟩, ⟨_, rfl, by decide⟩, ⟨_, rfl, by decide⟩, ⟨_, rfl, by decide⟩⟩

theorem witness_OnlyRndAndKeySkipsDraw :
    (∃ t, step (place 0xC30F State.reset) = .next t ∧ t.randDraws = 1) ∧
      (∃ t, step (place 0xE49E State.reset) = .next t ∧ t.keyQueries = 1) ∧
      (∃ t, step (place 0xE4A1 State.reset) = .next t ∧ t.keyQueries = 1) ∧
      (∃ t, step (place 0x6000 State.reset) = .next t ∧ t.randDraws = 0) :=
  ⟨⟨_, rfl, by decide⟩, ⟨_, rfl, by decide⟩, ⟨_, rfl, by decide⟩, ⟨_, rfl, by decide⟩⟩

theorem witness_DrwTogglesTheSpriteOrHalts :
    ((0 : BitVec 4) = 0 ∨ (State.reset.setI 0xFFFF).i.toNat + (0 : BitVec 4).toNat - 1 ≤ 4095) ∧
      (State.reset.setI 4094).i.toNat + (2 : BitVec 4).toNat - 1 ≤ 4095 ∧
      ((3 : BitVec 4) ≠ 0 ∧ 4095 < (State.reset.setI 4094).i.toNat + (3 : BitVec 4).toNat - 1) ∧
      ((1 : BitVec 4) ≠ 0 ∧ 4095 < (State.reset.setI 4096).i.toNat + (1 : BitVec 4).toNat - 1) := by decide

theorem witness_DrawingTwiceRestoresTheDisplay :
    (State.reset.setI 4094).i.toNat + (2 : BitVec 4).toNat - 1 ≤ 4095 ∧
      ∃ t, exec (.drwVxVyN 0 14 2) (State.reset.setI 4094) = .next t ∧
        t.readV 0 = (State.reset.setI 4094).readV 0 ∧ t.readV 14 = (State.reset.setI 4094).readV 14 :=
  ⟨by decide, _, rfl, by decide, by decide⟩

theorem witness_KeyReadWaits :
    (lastPlace 0xFF0A).run = .running ∧ (lastPlace 0xFF0A).fetchFault = none ∧
      decode (lastPlace 0xFF0A).fetchWord = some (.ldVxK 15) := by decide

theorem witness_KeyPressResolvesTheWait :
    waitingState.run = .waitingForKey 15 ∧ conventionalKey 15 = true ∧ conventionalKey 16 = false ∧
      (∀ x, State.reset.run ≠ .waitingForKey x) ∧ (∀ x, haltedState.run ≠ .waitingForKey x) := by decide

theorem witness_TimerTransfers :
    ((lastPlace 0xF507).run = .running ∧ (lastPlace 0xF507).fetchFault = none ∧
        decode (lastPlace 0xF507).fetchWord = some (.ldVxDt 5)) ∧
      ((lastPlace 0xF015).run = .running ∧ (lastPlace 0xF015).fetchFault = none ∧
        decode (lastPlace 0xF015).fetchWord = some (.ldDtVx 0)) ∧
      ((lastPlace 0xFF18).run = .running ∧ (lastPlace 0xFF18).fetchFault = none ∧
        decode (lastPlace 0xFF18).fetchWord = some (.ldStVx 15)) := by decide

theorem witness_BcdStoresThreeDigitsOrHalts :
    State.reset.mem.wf = true ∧ (State.reset.setI 4093).i.toNat + 2 ≤ 4095 ∧ 4095 < (State.reset.setI 4094).i.toNat + 2 := by
  decide

theorem witness_BlockStoreWritesV0ToVxOrHalts :
    State.reset.mem.wf = true ∧ (State.reset.setI 4080).i.toNat + (15 : Reg).val ≤ 4095 ∧
      4095 < (State.reset.setI 4081).i.toNat + (15 : Reg).val := by decide

theorem witness_BlockLoadReadsV0ToVxOrHalts :
    (State.reset.setI 4095).i.toNat + (0 : Reg).val ≤ 4095 ∧ 4095 < (State.reset.setI 4096).i.toNat + (0 : Reg).val := by
  decide

theorem witness_BlockStoreThenLoadRestoresRegisters :
    State.reset.mem.wf = true ∧ (State.reset.setI 4080).i.toNat + (15 : Reg).val ≤ 4095 ∧
      ∃ t, exec (.ldMemVx 15) ((withRegs [(3, 9)]).setI 4080) = .next t ∧ (t.writeV 3 0).i = t.i ∧
        ∀ k : Reg, k ≤ 15 → (t.writeV 3 0).mem.read (t.i.toNat + k.val) = t.mem.read (t.i.toNat + k.val) :=
  ⟨by decide, by decide, _, rfl, rfl, fun _ _ => rfl⟩

theorem witness_CanonicalMemoriesThatReadAlikeAreEqual :
    Memory.wf (State.reset.mem.write 0x300 7) = true ∧
      Memory.wf (((State.reset.mem.write 0x300 7).write 0x400 1).write 0x400 0) = true ∧
      ((State.reset.mem.write 0x300 7).write 0x400 1).write 0x400 0 = State.reset.mem.write 0x300 7 := by decide

theorem witness_EachElementHasItsWriters :
    (∃ t, exec (.ldBVx 0) (State.reset.setI 0x300 |>.writeV 0 157) = .next t ∧ t.mem ≠ State.reset.mem) ∧
      (∃ t, exec (.drwVxVyN 0 0 5) State.reset = .next t ∧ t.disp ≠ State.reset.disp) ∧
      (∃ t, exec (.call 0x300) State.reset = .next t ∧ t.stack ≠ State.reset.stack) ∧
      (∃ t, exec (.seVxKk 0 0) State.reset = .next t ∧ t.pc = State.reset.pc + 2) ∧
      (∃ t, exec (.addIVx 0) (withRegs [(0, 1)]) = .next t ∧ t.i ≠ (withRegs [(0, 1)]).i) ∧
      (∃ t, exec (.ldStVx 0) (withRegs [(0, 1)]) = .next t ∧ t.st ≠ (withRegs [(0, 1)]).st) ∧
      (∃ t, exec (.ldVxK 15) State.reset = .next t ∧ t.run ≠ State.reset.run) ∧
      (∃ t, exec (.ldVxMem 15) State.reset = .next t ∧ t.readV 15 ≠ State.reset.readV 15) :=
  ⟨⟨_, rfl, by decide⟩, ⟨_, rfl, by decide⟩, ⟨_, rfl, by decide⟩, ⟨_, rfl, by decide⟩, ⟨_, rfl, by decide⟩,
    ⟨_, rfl, by decide⟩, ⟨_, rfl, by decide⟩, ⟨_, rfl, by decide⟩⟩

/-- From a Running state the next step halts with this cause. -/
def HaltsNext (s : State) (c : Cause) : Prop := s.run = .running ∧ ∃ t, step s = .next t ∧ t.run = .halted c

theorem witness_CausesInOrderOfPriority :
    HaltsNext (State.reset.setPc 4095) .outOfRange ∧ HaltsNext (lastPlace 0x8008) .unknownOpcode ∧
      HaltsNext (place 0x2FFF fullStack) .stackOverflow ∧ HaltsNext (place 0x00EE State.reset) .stackUnderflow ∧
      HaltsNext (place 0xD121 (State.reset.setI 4096)) .outOfRange ∧
      HaltsNext (place 0xF033 (State.reset.setI 4094)) .outOfRange ∧
      HaltsNext (place 0xF155 (State.reset.setI 4095)) .outOfRange ∧
      HaltsNext (place 0xF065 (State.reset.setI 0xFFFF)) .outOfRange :=
  ⟨⟨rfl, _, rfl, rfl⟩, ⟨rfl, _, rfl, rfl⟩, ⟨rfl, _, rfl, rfl⟩, ⟨rfl, _, rfl, rfl⟩, ⟨rfl, _, rfl, rfl⟩, ⟨rfl, _, rfl, rfl⟩,
    ⟨rfl, _, rfl, rfl⟩, ⟨rfl, _, rfl, rfl⟩⟩

theorem witness_FatalConditionsArePrecise : HaltsNext (place 0xF033 (State.reset.setI 4094)) .outOfRange :=
  ⟨rfl, _, rfl, rfl⟩

theorem witness_HaltedIsLeftOnlyByReset :
    haltedState.run = .halted .unknownOpcode ∧ transact .reset haltedState = .next State.reset ∧
      transact .step haltedState = .next haltedState ∧ transact .cycle haltedState = .next haltedState ∧
      transact (.keyPress 1) haltedState = .next haltedState ∧
      (∃ t, transact (.load [0x60, 0x07] 0xFFE) haltedState = .next t ∧ t.mem ≠ haltedState.mem) ∧
      transact (.load [0x60, 0x07] 0xFFF) haltedState = .next haltedState :=
  ⟨rfl, rfl, rfl, rfl, rfl, ⟨_, rfl, by decide⟩, rfl⟩

theorem witness_WaitingIsLeftOnlyByKeyPressOrReset :
    waitingState.run = .waitingForKey 15 ∧ transact .reset waitingState = .next State.reset ∧
      transact .step waitingState = .next waitingState ∧ transact .cycle waitingState = .next waitingState ∧
      (∃ t, transact (.keyPress 0) waitingState = .next t ∧ t.run = .running) ∧
      (∃ t, transact (.load [0x60, 0x07] 0xFFE) waitingState = .next t ∧ t.run = .waitingForKey 15) ∧
      (∃ t, transact (.load [0x60, 0x07] 0xFFF) waitingState = .next t ∧ t.run = .halted .memoryOverflow) :=
  ⟨rfl, rfl, rfl, rfl, ⟨_, rfl, rfl⟩, ⟨_, rfl, rfl⟩, ⟨_, rfl, rfl⟩⟩

theorem witness_ExecutionStartsAt0x200 :
    (∃ t, transact .reset haltedState = .next t) ∧ 0xFFE + [0x60, 0x07].length ≤ 4096 := ⟨⟨_, rfl⟩, by decide⟩

/-- From a halted core that has drawn bytes and asked for keys, whose registers and memory are not at their reset values. -/
theorem witness_ResetValues :
    ∃ t, transact .reset { (withMem 0 [0xFF]).writeV 3 9 with run := .halted .outOfRange, randDraws := 5, keyQueries := 7 } =
      .next t ∧ t.mem = [] ∧ t.randDraws = 5 ∧ t.keyQueries = 7 := ⟨_, rfl, rfl, rfl, rfl⟩

/-- A state inside a subroutine, about to return. -/
def insideSubroutine : State := place 0x00EE oneCall

theorem witness_StepKeepsTheInvariant :
    insideSubroutine.Inv ∧ ∃ t, step insideSubroutine = .next t ∧ t.pc = 0x0206 :=
  have hr : insideSubroutine.run = .running := by decide
  have hh : HaltRecord insideSubroutine := by rw [HaltRecord, hr]; decide
  have he : ∀ w ∈ insideSubroutine.stack, w.toNat ≤ Config.memSize := fun w hw => by
    rw [List.mem_singleton.1 (hw : w ∈ [0x0206])]; decide
  ⟨⟨by decide, by decide, he, by decide, hh⟩, _, rfl, by decide⟩

/-- A program of one instruction, loaded: it waits for a key for V3. -/
def loadedKeyRead : State := { State.reset with mem := [(0x200, 0xF3), (0x201, 0x0A)] }

theorem load_loadedKeyRead : State.reset.load [0xF3, 0x0A] 0x200 = loadedKeyRead := by decide

theorem step_loadedKeyRead :
    step loadedKeyRead = .next { loadedKeyRead with pc := 0x0202, run := .waitingForKey 3 } := rfl

theorem reachable_loadedKeyRead : Reachable loadedKeyRead :=
  load_loadedKeyRead ▸ .transact (.load [0xF3, 0x0A] 0x200) (.reset State.reset) rfl

theorem witness_ReachableStatesMeetTheInvariant :
    Reachable { loadedKeyRead with pc := 0x0202, run := .waitingForKey 3 } :=
  .transact .step reachable_loadedKeyRead step_loadedKeyRead

theorem witness_LoadCopiesBytes :
    State.reset.mem.wf = true ∧ 4094 + [0xAA, 0xBB].length ≤ 4096 ∧ 1 < [0xAA, 0xBB].length ∧ 0 + ([] : List Byte).length ≤ 4096 := by
  decide

theorem witness_LoadOverflowHalts :
    4096 < 4095 + [0xAA, 0xBB].length ∧ 4096 < 4097 + ([] : List Byte).length ∧ (∀ c, State.reset.run ≠ .halted c) ∧
      (∀ c, waitingState.run ≠ .halted c) ∧ (∃ c, haltedState.run = .halted c) :=
  ⟨by decide, by decide, nofun, nofun, _, rfl⟩

theorem witness_SelfJumpOnlyCountsDownTheTimers :
    (lastPlace 0x1FFE).run = .running ∧ (lastPlace 0x1FFE).fetchFault = none ∧
      decode (lastPlace 0x1FFE).fetchWord = some (.jp 0xFFE) ∧ (0xFFE : BitVec 12).toNat = (lastPlace 0x1FFE).pc.toNat := by
  decide

theorem witness_NoInstructionReadsSTOrHaltInfo :
    (∃ t, exec (.ldStVx 0) State.reset = .next t) ∧ (∃ t, exec .ret State.reset = .next t ∧ t.haltInfo = 0x00EE) :=
  ⟨⟨_, rfl⟩, ⟨_, rfl, by decide⟩⟩

end Sys2Proof.Tests
end

section
/-! Loads by the host (R50): what a load that fits does to the state, and the statement about it. -/

namespace Sys2Proof.Machine

/-- A load that fits is a block write to memory. -/
theorem State.load_of_fits (s : State) {bytes : List Byte} {base : Nat} (hfit : base + bytes.length ≤ 4096) :
    s.load bytes base = { s with mem := s.mem.writeBlock base bytes } :=
  if_pos hfit

/-- Settles O53: a load that fits is one block write, which reads back inside the block and changes nothing outside it. -/
theorem loadCopiesBytes : Obligations.LoadCopiesBytes := by
  intro bytes base s hwf hfit
  rw [s.load_of_fits hfit]
  refine ⟨?inside, ?outside, ?frame⟩
  case inside => exact Memory.read_writeBlock_inside bytes hwf hfit
  case outside => exact fun _ ha => Memory.read_writeBlock_outside bytes hwf hfit ha
  case frame => rfl

end Sys2Proof.Machine
end

section
/-! The absolute jump (R120): what a write to PC leaves alone, the target as a number, and the statement about JP. -/

namespace Sys2Proof.Machine

/-- A write to PC changes PC only. -/
theorem State.setPc_sameExcept (s : State) (w : Word) : SameExcept { pc := true } s (s.setPc w) where
  regs r _ := s.setPc_readV w r
  i _ := s.setPc_i w
  pc := nofun
  stack _ := s.setPc_stack w
  dt _ := s.setPc_dt w
  st _ := s.setPc_st w
  run _ := ⟨s.setPc_run w, s.setPc_haltInfo w⟩
  mem _ a := congrArg (Memory.read · a) (s.setPc_mem w)
  disp _ x y := congrArg (Display.cell · x y) (s.setPc_disp w)
  randDraws _ := s.setPc_randDraws w
  keyQueries _ := s.setPc_keyQueries w

/-- Zero extension keeps the number (R73). -/
@[simp] theorem zextNnn_toNat (nnn : BitVec 12) : (zextNnn nnn).toNat = nnn.toNat :=
  BitVec.toNat_setWidth_of_le (by decide)

theorem formatNnn_jp (nnn : BitVec 12) : FormatNnn (.jp nnn) 0x1 nnn :=
  ⟨opFam_encNnn 0x1 nnn, opNnn_encNnn 0x1 nnn⟩

theorem exec_jp (nnn : BitVec 12) (s : State) : exec (.jp nnn) s = .next (s.setPc (zextNnn nnn)) := rfl

/-- Settles O15: JP is one write of PC, whose value is nnn extended without change. -/
theorem jpLoadsThePc : Obligations.JpLoadsThePc := by
  intro nnn s
  refine ⟨formatNnn_jp nnn, s.setPc (zextNnn nnn), exec_jp nnn s, ?target, ?frame⟩
  case target => rw [s.setPc_pc, zextNnn_toNat]
  case frame => exact s.setPc_sameExcept (zextNnn nnn)

end Sys2Proof.Machine
end

section
/-! Immediate load and add, copy and logic (R140 to R145): what a register write leaves alone, the formats XKK and XYN read
off an encoding, and the statements. Each of the six instructions is one register write. -/

namespace Sys2Proof.Machine

/-- A register write changes that register only. -/
theorem State.writeV_sameExcept (s : State) (x : Reg) (b : Byte) :
    SameExcept { regs := fun r => r == x } s (s.writeV x b) where
  regs _ h := s.readV_writeV_ne b (ne_of_beq_false h)
  i _ := s.writeV_i x b
  pc _ := s.writeV_pc x b
  stack _ := s.writeV_stack x b
  dt _ := s.writeV_dt x b
  st _ := s.writeV_st x b
  run _ := ⟨s.writeV_run x b, s.writeV_haltInfo x b⟩
  mem _ a := congrArg (Memory.read · a) (s.writeV_mem x b)
  disp _ cx cy := congrArg (Display.cell · cx cy) (s.writeV_disp x b)
  randDraws _ := s.writeV_randDraws x b
  keyQueries _ := s.writeV_keyQueries x b

theorem formatXKk_of_encode {i : Instr} {f : BitVec 4} {x : Reg} {kk : Byte} (h : encode i = encXKk f x kk) :
    FormatXKk i f x kk := by
  rw [FormatXKk, h]
  exact ⟨opFam_encXKk .., opX_encXKk .., opKk_encXKk ..⟩

theorem formatXYN_of_encode {i : Instr} {f : BitVec 4} {x y : Reg} {n : BitVec 4} (h : encode i = encXYN f x y n) :
    FormatXYN i f x y n := by
  rw [FormatXYN, h]
  exact ⟨opFam_encXYN .., opX_encXYN .., opY_encXYN .., opN_encXYN ..⟩

/-- An instruction that is one register write completes, leaves in that register a byte with every property `P` of the byte
written, and changes nothing else. -/
theorem completes_of_exec_eq_writeV {i : Instr} {s : State} {x : Reg} {b : Byte} (P : Byte → Prop)
    (hexec : exec i s = .next (s.writeV x b)) (hb : P b) :
    ∃ t, exec i s = .next t ∧ P (t.readV x) ∧ SameExcept { regs := fun r => r == x } s t :=
  ⟨s.writeV x b, hexec, (s.readV_writeV_same x b).symm ▸ hb, s.writeV_sameExcept x b⟩

section
variable (x y : Reg) (kk : Byte) (s : State)

theorem exec_ldVxKk : exec (.ldVxKk x kk) s = .next (s.writeV x kk) := rfl
theorem exec_addVxKk : exec (.addVxKk x kk) s = .next (s.writeV x (s.readV x + kk)) := rfl
theorem exec_ldVxVy : exec (.ldVxVy x y) s = .next (s.writeV x (s.readV y)) := rfl
theorem exec_orVxVy : exec (.orVxVy x y) s = .next (s.writeV x (s.readV x ||| s.readV y)) := rfl
theorem exec_andVxVy : exec (.andVxVy x y) s = .next (s.writeV x (s.readV x &&& s.readV y)) := rfl
theorem exec_xorVxVy : exec (.xorVxVy x y) s = .next (s.writeV x (s.readV x ^^^ s.readV y)) := rfl

end

/-- Settles O20: each is one register write, of kk and of the sum of two bytes, which is the sum mod 256. -/
theorem immediateLoadAndAdd : Obligations.ImmediateLoadAndAdd := by
  intro x kk s
  refine ⟨⟨formatXKk_of_encode rfl, ?load⟩, formatXKk_of_encode rfl, ?add⟩
  case load => exact completes_of_exec_eq_writeV (· = kk) (exec_ldVxKk x kk s) rfl
  case add =>
    exact completes_of_exec_eq_writeV (fun r => r.toNat = ((s.readV x).toNat + kk.toNat) % 256) (exec_addVxKk x kk s)
      (BitVec.toNat_add _ _)

/-- Settles O21: each is one register write, of a byte whose bit k is the copy, or, and, or xor of the operands' bits k. -/
theorem copyAndLogic : Obligations.CopyAndLogic := by
  intro x y s
  refine ⟨⟨formatXYN_of_encode rfl, ?copy⟩, ⟨formatXYN_of_encode rfl, ?or⟩, ⟨formatXYN_of_encode rfl, ?and⟩,
    formatXYN_of_encode rfl, ?xor⟩
  case copy => exact completes_of_exec_eq_writeV (· = s.readV y) (exec_ldVxVy x y s) rfl
  case or =>
    exact completes_of_exec_eq_writeV (fun r => ∀ k, r.getLsbD k = ((s.readV x).getLsbD k || (s.readV y).getLsbD k))
      (exec_orVxVy x y s) fun _ => BitVec.getLsbD_or
  case and =>
    exact completes_of_exec_eq_writeV (fun r => ∀ k, r.getLsbD k = ((s.readV x).getLsbD k && (s.readV y).getLsbD k))
      (exec_andVxVy x y s) fun _ => BitVec.getLsbD_and
  case xor =>
    exact completes_of_exec_eq_writeV (fun r => ∀ k, r.getLsbD k = ((s.readV x).getLsbD k ^^ (s.readV y).getLsbD k))
      (exec_xorVxVy x y s) fun _ => BitVec.getLsbD_xor

end Sys2Proof.Machine
end

section
/-! The key read (R212): what a write to `run` leaves alone, the step that runs a decoded instruction, the step that ends
with the core not Running, and the statement about LD Vx, K. -/

namespace Sys2Proof.Machine

/-- A write to `run` changes `run` only; the frame names `run` and `halt_info` together. -/
theorem State.setRun_sameExcept (s : State) (r : RunState) : SameExcept { run := true } s (s.setRun r) where
  regs q _ := s.setRun_readV r q
  i _ := s.setRun_i r
  pc _ := s.setRun_pc r
  stack _ := s.setRun_stack r
  dt _ := s.setRun_dt r
  st _ := s.setRun_st r
  run := nofun
  mem _ a := congrArg (Memory.read · a) (s.setRun_mem r)
  disp _ x y := congrArg (Display.cell · x y) (s.setRun_disp r)
  randDraws _ := s.setRun_randDraws r
  keyQueries _ := s.setRun_keyQueries r

/-- The step of a Running core whose fetch succeeds and decodes (R100 to R106). -/
theorem step_of_decode {s : State} {i : Instr} (hrun : s.run = .running) (hfetch : s.fetchFault = none)
    (hdec : decode s.fetchWord = some i) : step s = finish (exec i s.advancePc) := by
  have hpc := s.fetchFault_eq_none_iff.1 hfetch
  obtain ⟨hstopped, _⟩ | ⟨_, habove, _⟩ | ⟨_, _, hunknown, _⟩ | ⟨j, _, _, hj, hstep⟩ := step_cases s
  · exact absurd hrun hstopped
  · exact absurd hpc habove.not_ge
  · cases hdec.symm.trans hunknown
  · cases hdec.symm.trans hj
    exact hstep

/-- The end of a step adds nothing to an instruction that leaves the core waiting or halted (R106). -/
theorem finish_not_running {t : State} (h : t.run ≠ .running) : finish (.next t) = .next t :=
  congrArg Host.Outcome.next (State.afterInstruction_not_running h)

theorem exec_ldVxK (x : Reg) (s : State) : exec (.ldVxK x) s = .next (s.setRun (.waitingForKey x)) := rfl

/-- Settles O34: LD Vx, K is one write of `run`, and a core that waits skips the step's tick. -/
theorem keyReadWaits : Obligations.KeyReadWaits := by
  intro x s
  refine ⟨formatXKk_of_encode rfl, ⟨s.setRun (.waitingForKey x), exec_ldVxK x s, ?waits, ?haltInfo, ?frame⟩, ?step⟩
  case waits => exact s.setRun_run _
  case haltInfo => exact s.setRun_haltInfo _
  case frame => exact s.setRun_sameExcept _
  case step =>
    intro hrun hfetch hdec
    have hwaits : (s.advancePc.setRun (.waitingForKey x)).run ≠ .running := nofun
    calc step s = finish (exec (.ldVxK x) s.advancePc) := step_of_decode hrun hfetch hdec
      _ = finish (.next (s.advancePc.setRun (.waitingForKey x))) := congrArg finish (exec_ldVxK x _)
      _ = .next (s.advancePc.setRun (.waitingForKey x)) := finish_not_running hwaits

end Sys2Proof.Machine
end

section
/-! The decoder against the encoder and against the opcode map (R71 to R80): both round trips, the unknown opcodes, the rows
and the ignored bits. An opcode that R78 does not list is put together again from its fields, so it is the opcode of an
instruction; everything else about the decoder follows from this and from `decode_encode`. -/

namespace Sys2Proof

theorem decode_encode (i : Instr) : decode (encode i) = some i := by
  cases i with
  | cls | ret => decide
  | jp | call | ldINnn | jpV0Nnn => simp [encode, decode]
  | seVxKk | sneVxKk | ldVxKk | addVxKk | rndVxKk => simp [encode, decode]
  | seVxVy | sneVxVy | drwVxVyN => simp [encode, decode]
  | ldVxVy | orVxVy | andVxVy | xorVxVy | addVxVy | subVxVy | shrVx | subnVxVy | shlVx => simp [encode, decode, decodeFam8]
  | skpVx | sknpVx => simp [encode, decode, decodeFamE]
  | ldVxDt | ldVxK | ldDtVx | ldStVx | addIVx | ldFVx | ldBVx | ldMemVx | ldVxMem => simp [encode, decode, decodeFamF]

/-- Settles O1, by cases on the instruction: each field read off the encoding is the operand put there. -/
theorem decodeOfEncodeIsIdentity : Obligations.DecodeOfEncodeIsIdentity := decode_encode

/-- What R78 lists, in terms of the fields. -/
def ListedUnknown (op : Word) : Prop :=
  (opFam op = 0x0#4 ∧ op ∉ [0x00E0#16, 0x00EE#16]) ∨
  (opFam op = 0x8#4 ∧ opN op ∉ [0x0#4, 0x1#4, 0x2#4, 0x3#4, 0x4#4, 0x5#4, 0x6#4, 0x7#4, 0xE#4]) ∨
  (opFam op = 0xE#4 ∧ opKk op ∉ [0x9E#8, 0xA1#8]) ∨
  (opFam op = 0xF#4 ∧ opKk op ∉ [0x07#8, 0x0A#8, 0x15#8, 0x18#8, 0x1E#8, 0x29#8, 0x33#8, 0x55#8, 0x65#8])

section
variable {op : Word} {f : BitVec 4}

theorem encNnn_of_fam (hf : opFam op = f) : encNnn f (opNnn op) = op := hf ▸ encNnn_fields op

theorem encXKk_of_fam (hf : opFam op = f) : encXKk f (opX op) (opKk op) = op := hf ▸ encXKk_fields op

theorem encXYN_of_fam (hf : opFam op = f) : encXYN f (opX op) (opY op) (opN op) = op := hf ▸ encXYN_fields op

theorem encXKk_of_famKk {kk : Byte} (hf : opFam op = f) (hk : opKk op = kk) : encXKk f (opX op) kk = op :=
  hk ▸ encXKk_of_fam hf

theorem encXYN_of_famN {n : BitVec 4} (hf : opFam op = f) (hn : opN op = n) : encXYN f (opX op) (opY op) n = op :=
  hn ▸ encXYN_of_fam hf

/-! The four families that a second test tells apart (R74, R79). -/

theorem exists_encode_fam0 (h : op ∈ [0x00E0#16, 0x00EE#16]) : ∃ i, encode i = op := by
  simp only [List.mem_cons, List.not_mem_nil, or_false] at h
  rcases h with hop | hop
  · exact ⟨.cls, hop.symm⟩
  · exact ⟨.ret, hop.symm⟩

theorem exists_encode_fam8 (hf : opFam op = 0x8#4)
    (h : opN op ∈ [0x0#4, 0x1#4, 0x2#4, 0x3#4, 0x4#4, 0x5#4, 0x6#4, 0x7#4, 0xE#4]) : ∃ i, encode i = op := by
  simp only [List.mem_cons, List.not_mem_nil, or_false] at h
  rcases h with hn | hn | hn | hn | hn | hn | hn | hn | hn
  · exact ⟨.ldVxVy (opX op) (opY op), encXYN_of_famN hf hn⟩
  · exact ⟨.orVxVy (opX op) (opY op), encXYN_of_famN hf hn⟩
  · exact ⟨.andVxVy (opX op) (opY op), encXYN_of_famN hf hn⟩
  · exact ⟨.xorVxVy (opX op) (opY op), encXYN_of_famN hf hn⟩
  · exact ⟨.addVxVy (opX op) (opY op), encXYN_of_famN hf hn⟩
  · exact ⟨.subVxVy (opX op) (opY op), encXYN_of_famN hf hn⟩
  · exact ⟨.shrVx (opX op) (opY op), encXYN_of_famN hf hn⟩
  · exact ⟨.subnVxVy (opX op) (opY op), encXYN_of_famN hf hn⟩
  · exact ⟨.shlVx (opX op) (opY op), encXYN_of_famN hf hn⟩

theorem exists_encode_famE (hf : opFam op = 0xE#4) (h : opKk op ∈ [0x9E#8, 0xA1#8]) : ∃ i, encode i = op := by
  simp only [List.mem_cons, List.not_mem_nil, or_false] at h
  rcases h with hk | hk
  · exact ⟨.skpVx (opX op), encXKk_of_famKk hf hk⟩
  · exact ⟨.sknpVx (opX op), encXKk_of_famKk hf hk⟩

theorem exists_encode_famF (hf : opFam op = 0xF#4)
    (h : opKk op ∈ [0x07#8, 0x0A#8, 0x15#8, 0x18#8, 0x1E#8, 0x29#8, 0x33#8, 0x55#8, 0x65#8]) : ∃ i, encode i = op := by
  simp only [List.mem_cons, List.not_mem_nil, or_false] at h
  rcases h with hk | hk | hk | hk | hk | hk | hk | hk | hk
  · exact ⟨.ldVxDt (opX op), encXKk_of_famKk hf hk⟩
  · exact ⟨.ldVxK (opX op), encXKk_of_famKk hf hk⟩
  · exact ⟨.ldDtVx (opX op), encXKk_of_famKk hf hk⟩
  · exact ⟨.ldStVx (opX op), encXKk_of_famKk hf hk⟩
  · exact ⟨.addIVx (opX op), encXKk_of_famKk hf hk⟩
  · exact ⟨.ldFVx (opX op), encXKk_of_famKk hf hk⟩
  · exact ⟨.ldBVx (opX op), encXKk_of_famKk hf hk⟩
  · exact ⟨.ldMemVx (opX op), encXKk_of_famKk hf hk⟩
  · exact ⟨.ldVxMem (opX op), encXKk_of_famKk hf hk⟩

/-- Family by family, an opcode that R78 does not list is the opcode of an instruction. -/
theorem exists_encode_of_not_listed (h : ¬ ListedUnknown op) : ∃ i, encode i = op := by
  simp only [ListedUnknown, not_or, not_and, not_not] at h
  obtain ⟨h0, h8, hE, hF⟩ := h
  have families : ∀ f : BitVec 4, f = 0x0#4 ∨ f = 0x1#4 ∨ f = 0x2#4 ∨ f = 0x3#4 ∨ f = 0x4#4 ∨ f = 0x5#4 ∨ f = 0x6#4 ∨
    f = 0x7#4 ∨ f = 0x8#4 ∨ f = 0x9#4 ∨ f = 0xA#4 ∨ f = 0xB#4 ∨ f = 0xC#4 ∨ f = 0xD#4 ∨ f = 0xE#4 ∨ f = 0xF#4 := by decide
  rcases families (opFam op) with hf | hf | hf | hf | hf | hf | hf | hf | hf | hf | hf | hf | hf | hf | hf | hf
  · exact exists_encode_fam0 (h0 hf)
  · exact ⟨.jp (opNnn op), encNnn_of_fam hf⟩
  · exact ⟨.call (opNnn op), encNnn_of_fam hf⟩
  · exact ⟨.seVxKk (opX op) (opKk op), encXKk_of_fam hf⟩
  · exact ⟨.sneVxKk (opX op) (opKk op), encXKk_of_fam hf⟩
  · exact ⟨.seVxVy (opX op) (opY op) (opN op), encXYN_of_fam hf⟩
  · exact ⟨.ldVxKk (opX op) (opKk op), encXKk_of_fam hf⟩
  · exact ⟨.addVxKk (opX op) (opKk op), encXKk_of_fam hf⟩
  · exact exists_encode_fam8 hf (h8 hf)
  · exact ⟨.sneVxVy (opX op) (opY op) (opN op), encXYN_of_fam hf⟩
  · exact ⟨.ldINnn (opNnn op), encNnn_of_fam hf⟩
  · exact ⟨.jpV0Nnn (opNnn op), encNnn_of_fam hf⟩
  · exact ⟨.rndVxKk (opX op) (opKk op), encXKk_of_fam hf⟩
  · exact ⟨.drwVxVyN (opX op) (opY op) (opN op), encXYN_of_fam hf⟩
  · exact exists_encode_famE hf (hE hf)
  · exact exists_encode_famF hf (hF hf)

theorem decode_of_listed (h : ListedUnknown op) : decode op = none := by
  simp only [ListedUnknown, List.mem_cons, List.not_mem_nil, or_false, not_or] at h
  rcases h with ⟨hf, hop⟩ | ⟨hf, hn⟩ | ⟨hf, hk⟩ | ⟨hf, hk⟩
  · simp [decode, hf, decodeFam0, hop]
  · simp [decode, hf, decodeFam8, hn]
  · simp [decode, hf, decodeFamE, hk]
  · simp [decode, hf, decodeFamF, hk]

theorem decode_eq_none_iff : decode op = none ↔ ListedUnknown op := by
  refine ⟨fun hnone => ?_, decode_of_listed⟩
  by_contra hlisted
  obtain ⟨i, rfl⟩ := exists_encode_of_not_listed hlisted
  cases hnone.symm.trans (decode_encode i)

theorem encode_of_decode {i : Instr} (h : decode op = some i) : encode i = op := by
  have hlisted : ¬ ListedUnknown op := fun hl => by cases h.symm.trans (decode_of_listed hl)
  obtain ⟨j, rfl⟩ := exists_encode_of_not_listed hlisted
  cases h.symm.trans (decode_encode j)
  rfl

end

/-- Settles O2: an opcode that decodes is not listed as unknown, so it is the opcode of an instruction, and that is the one
the decoder gives back. -/
theorem encodeOfDecodeIsIdentity : Obligations.EncodeOfDecodeIsIdentity := fun _ _ => encode_of_decode

/-! Unknown opcodes as numbers, and the rows (R75, R78, R80). -/

/-- The values of op[3:0] that no row of family 8 takes. -/
theorem famN_unknown_iff (n : BitVec 4) :
    n ∉ [0x0#4, 0x1#4, 0x2#4, 0x3#4, 0x4#4, 0x5#4, 0x6#4, 0x7#4, 0xE#4] ↔ n.toNat ∈ [0x8, 0x9, 0xA, 0xB, 0xC, 0xD, 0xF] := by
  revert n; decide

theorem toNat_mem_map_iff {w : Nat} (a : BitVec w) (l : List (BitVec w)) : a.toNat ∈ l.map BitVec.toNat ↔ a ∈ l := by
  simp only [List.mem_map, BitVec.toNat_inj, exists_eq_right]

/-- Settles O4: the decoder's unknown opcodes by their fields, and the fields as numbers. -/
theorem unknownOpcodesAreThoseListed : Obligations.UnknownOpcodesAreThoseListed := by
  intro op
  have hE := toNat_mem_map_iff (opKk op) [0x9E#8, 0xA1#8]
  have hF := toNat_mem_map_iff (opKk op) [0x07#8, 0x0A#8, 0x15#8, 0x18#8, 0x1E#8, 0x29#8, 0x33#8, 0x55#8, 0x65#8]
  rw [opKk_toNat] at hE hF
  have hfam (f : BitVec 4) : opFam op = f ↔ op.toNat / 4096 = f.toNat := by rw [← BitVec.toNat_inj, opFam_toNat]
  rw [decode_eq_none_iff, ListedUnknown, famN_unknown_iff, opN_toNat, ← hE, ← hF, hfam, hfam, hfam, hfam]
  simp

/-- Two rows whose match columns differ in a bit that both mask are disjoint. -/
theorem disjoint_of_match_ne {r q : Word × Word} (h : r.2 &&& q.1 ≠ q.2 &&& r.1) (op : Word) :
    ¬ (op &&& r.1 = r.2 ∧ op &&& q.1 = q.2) := by
  rintro ⟨hr, hq⟩
  rw [← hr, ← hq, BitVec.and_assoc, BitVec.and_assoc, BitVec.and_comm r.1] at h
  exact h rfl

theorem opcodeMap_pairwise_match_ne : opcodeMap.Pairwise fun r q => r.2 &&& q.1 ≠ q.2 &&& r.1 := by decide

theorem row_mem_opcodeMap (i : Instr) : (rowMask i, rowMatch i) ∈ opcodeMap := by
  cases i <;> exact of_decide_eq_true rfl

open Laws.EncodesItsRow in
theorem encode_and_rowMask (i : Instr) : encode i &&& rowMask i = rowMatch i := by
  cases i
  exacts [cls, ret, jp _, call _, seVxKk _ _, sneVxKk _ _, seVxVy _ _ _, ldVxKk _ _, addVxKk _ _, ldVxVy _ _, orVxVy _ _,
    andVxVy _ _, xorVxVy _ _, addVxVy _ _, subVxVy _ _, shrVx _ _, subnVxVy _ _, shlVx _ _, sneVxVy _ _ _, ldINnn _,
    jpV0Nnn _, rndVxKk _ _, drwVxVyN _ _ _, skpVx _, sknpVx _, ldVxDt _, ldVxK _, ldDtVx _, ldStVx _, addIVx _, ldFVx _,
    ldBVx _, ldMemVx _, ldVxMem _]

theorem and_ones16 (op : Word) : op &&& 0xFFFF#16 = op := BitVec.and_allOnes

theorem opFam_and (a b : Word) : opFam (a &&& b) = opFam a &&& opFam b := BitVec.extractLsb'_and
theorem opN_and (a b : Word) : opN (a &&& b) = opN a &&& opN b := BitVec.extractLsb'_and
theorem opKk_and (a b : Word) : opKk (a &&& b) = opKk a &&& opKk b := BitVec.extractLsb'_and

theorem opcodeMap_match_decodes : ∀ r ∈ opcodeMap, decode r.2 ≠ none :=
  List.forall_iff_forall_mem.1 (by decide)

/-- Each mask column covers the family, and in the families with a second test the bits of that test. -/
theorem opcodeMap_mask_covers : ∀ r ∈ opcodeMap, opFam r.1 = 0xF#4 ∧ (opFam r.2 = 0x0#4 → r.1 = 0xFFFF#16) ∧
    (opFam r.2 = 0x8#4 → opN r.1 = 0xF#4) ∧ (opFam r.2 = 0xE#4 ∨ opFam r.2 = 0xF#4 → opKk r.1 = 0xFF#8) :=
  List.forall_iff_forall_mem.1 (by decide)

/-- An opcode that matches a row is as known as the row's match column. -/
theorem not_listed_of_row {op : Word} {r : Word × Word} (hr : r ∈ opcodeMap) (hop : op &&& r.1 = r.2) :
    ¬ ListedUnknown op := by
  obtain ⟨hfam, h0, h8, hEF⟩ := opcodeMap_mask_covers r hr
  have hmatch : ¬ ListedUnknown r.2 := fun hl => opcodeMap_match_decodes r hr (decode_of_listed hl)
  have eFam : opFam r.2 = opFam op := by rw [← hop, opFam_and, hfam, and_ones4]
  rw [eFam] at h0 h8 hEF
  refine fun hl => hmatch ?_
  rw [ListedUnknown, eFam]
  refine hl.imp ?fam0 (Or.imp ?fam8 (Or.imp ?famE ?famF))
  case fam0 => exact fun ⟨hf, h⟩ => ⟨hf, by rwa [← hop, h0 hf, and_ones16]⟩
  case fam8 => exact fun ⟨hf, h⟩ => ⟨hf, by rwa [← hop, opN_and, h8 hf, and_ones4]⟩
  case famE => exact fun ⟨hf, h⟩ => ⟨hf, by rwa [← hop, opKk_and, hEF (.inl hf), and_ones8]⟩
  case famF => exact fun ⟨hf, h⟩ => ⟨hf, by rwa [← hop, opKk_and, hEF (.inr hf), and_ones8]⟩

/-- Settles O3: rows are disjoint by a bit both mask; a decoded opcode is an encoding, which lies in its own row; and an
opcode in a row is not listed as unknown. -/
theorem opcodeMapSelectsOneRowOrNone : Obligations.OpcodeMapSelectsOneRowOrNone := by
  have ownRow {op : Word} {i : Instr} (h : decode op = some i) : op &&& rowMask i = rowMatch i :=
    encode_of_decode h ▸ encode_and_rowMask i
  refine ⟨rfl, opcodeMap_pairwise_match_ne.imp disjoint_of_match_ne, fun op i h => ⟨row_mem_opcodeMap i, ownRow h⟩,
    fun op => ⟨fun hnone r hr hop => ?noRow, fun hrows => ?unknown⟩⟩
  case noRow => exact not_listed_of_row hr hop (decode_eq_none_iff.1 hnone)
  case unknown =>
    cases hdec : decode op with
    | none => rfl
    | some i => exact absurd (ownRow hdec) (hrows _ (row_mem_opcodeMap i))

open Machine in
/-- Settles O5: the encodings with ignored bits decode by the round trip, and no meaning names those bits. -/
theorem ignoredBitsChangeNothing : Obligations.IgnoredBitsChangeNothing := by
  intro x y n s
  refine ⟨⟨decode_encode (.seVxVy x y n), rfl⟩, ⟨decode_encode (.sneVxVy x y n), rfl⟩, ⟨decode_encode (.shrVx x y), rfl⟩,
    ⟨decode_encode (.shlVx x y), rfl⟩, ?_, ?_, ?_, ?_⟩ <;> exact beq_iff_eq

/-- Settles O6, by running the decoder on each opcode. -/
theorem writtenOpcodesDecode : Obligations.WrittenOpcodesDecode := by
  unfold Obligations.WrittenOpcodesDecode
  decide

end Sys2Proof
end

section
/-! What an instruction writes, element by element (R10 to R19, R47, R260 to R264): first the frames of the instructions that can
raise, then one lemma per element of state over all instructions, and from them the statements about writers, about VF and
about what no instruction reads. -/

namespace Sys2Proof.Machine

/-- The instruction can meet a fatal condition (R262 to R264). -/
def CanRaise (i : Instr) : Prop :=
  i = .ret ∨ (∃ nnn, i = .call nnn) ∨ (∃ x y n, i = .drwVxVyN x y n) ∨ (∃ x, i = .ldBVx x) ∨ (∃ x, i = .ldMemVx x) ∨
  (∃ x, i = .ldVxMem x)

/-- The word an access at I records (R262). -/
def State.rangeWord (s : State) : Word := BitVec.ofNat 16 (max s.i.toNat 4096)

/-- Instruction `i`, executed in state `s`, meets the fatal condition `c` with the word `w` (R262 to R264). -/
inductive Raises (s : State) : Instr → Cause → Word → Prop where
  | call (nnn : BitVec 12) (hfull : 16 ≤ s.stack.length) : Raises s (.call nnn) .stackOverflow (encode (.call nnn))
  | ret (hempty : s.stack = []) : Raises s .ret .stackUnderflow (encode .ret)
  | drwVxVyN (x y : Reg) (n : BitVec 4) (hout : 4096 < s.i.toNat + n.toNat) :
    Raises s (.drwVxVyN x y n) .outOfRange s.rangeWord
  | ldBVx (x : Reg) (hout : 4096 < s.i.toNat + 3) : Raises s (.ldBVx x) .outOfRange s.rangeWord
  | ldMemVx (x : Reg) (hout : 4096 < s.i.toNat + (x.val + 1)) : Raises s (.ldMemVx x) .outOfRange s.rangeWord
  | ldVxMem (x : Reg) (hout : 4096 < s.i.toNat + (x.val + 1)) : Raises s (.ldVxMem x) .outOfRange s.rangeWord

/-- The instruction names register `r` in its x field as destination, or covers it in a block load, or is a flag writer and
`r` is VF (R11, R12). -/
def WritesReg (i : Instr) (r : Reg) : Prop :=
  (∃ kk, i = .ldVxKk r kk ∨ i = .addVxKk r kk ∨ i = .rndVxKk r kk) ∨
  (∃ y, i = .ldVxVy r y ∨ i = .orVxVy r y ∨ i = .andVxVy r y ∨ i = .xorVxVy r y) ∨
  (∃ x y, (r = x ∨ r = Reg.vF) ∧ (i = .addVxVy x y ∨ i = .subVxVy x y ∨ i = .shrVx x y ∨ i = .subnVxVy x y ∨
    i = .shlVx x y)) ∨
  (∃ x y n, r = Reg.vF ∧ i = .drwVxVyN x y n) ∨ i = .ldVxDt r ∨ (∃ x, r ≤ x ∧ i = .ldVxMem x)

/-- The instruction is one of the six skips (R123 to R126, R210, R211). -/
def Skips (i : Instr) : Prop :=
  (∃ x kk, i = .seVxKk x kk) ∨ (∃ x kk, i = .sneVxKk x kk) ∨ (∃ x y n, i = .seVxVy x y n) ∨
  (∃ x y n, i = .sneVxVy x y n) ∨ (∃ x, i = .skpVx x) ∨ (∃ x, i = .sknpVx x)

theorem exec_total (i : Instr) (s : State) : ∃ t, exec i s = .next t := by
  cases i <;> exact ⟨_, rfl⟩

section
variable {i : Instr} {s t : State}

/-! The frames of the six instructions that can raise: what they change when they complete, and `run` and `halt_info`. -/

theorem call_frame {nnn : BitVec 12} (h : exec (.call nnn) s = .next t) :
    t = { s with stack := t.stack, pc := t.pc, run := t.run, haltInfo := t.haltInfo } := by
  cases h
  obtain ⟨_, e⟩ | ⟨_, e⟩ := s.pushAndJump_cases (encode (.call nnn)) (zextNnn nnn)
  · rw [e]
  · rw [e]; rfl

theorem ret_frame (h : exec .ret s = .next t) :
    t = { s with stack := t.stack, pc := t.pc, run := t.run, haltInfo := t.haltInfo } := by
  cases h
  obtain ⟨_, _, _, e⟩ | ⟨_, e⟩ := s.popToPc_cases (encode .ret)
  · rw [e]
  · rw [e]; rfl

theorem drwVxVyN_frame {x y : Reg} {n : BitVec 4} (h : exec (.drwVxVyN x y n) s = .next t) :
    t = { s with v := t.v, disp := t.disp, run := t.run, haltInfo := t.haltInfo } := by
  cases h
  obtain e | ⟨_, e⟩ := s.guardRange_cases n.toNat _ <;> rw [e] <;> rfl

theorem ldBVx_frame {x : Reg} (h : exec (.ldBVx x) s = .next t) :
    t = { s with mem := t.mem, run := t.run, haltInfo := t.haltInfo } := by
  cases h
  obtain e | ⟨_, e⟩ := s.guardRange_cases 3 _ <;> rw [e] <;> rfl

theorem ldMemVx_frame {x : Reg} (h : exec (.ldMemVx x) s = .next t) :
    t = { s with mem := t.mem, run := t.run, haltInfo := t.haltInfo } := by
  cases h
  obtain e | ⟨_, e⟩ := s.guardRange_cases (x.val + 1) _ <;> rw [e] <;> rfl

theorem ldVxMem_frame {x : Reg} (h : exec (.ldVxMem x) s = .next t) :
    t = { s with v := t.v, run := t.run, haltInfo := t.haltInfo } := by
  cases h
  obtain e | ⟨_, e⟩ := s.guardRange_cases (x.val + 1) (s.loadRegsAtI x) <;> rw [e]
  · rw [State.loadRegsAtI]
  · rfl

/-- The six frames together: an instruction that can raise leaves I, the timers and the counters of draws. -/
theorem canRaise_frame (hi : CanRaise i) (h : exec i s = .next t) :
    t = { s with mem := t.mem, v := t.v, pc := t.pc, stack := t.stack, run := t.run, haltInfo := t.haltInfo, disp := t.disp } := by
  obtain rfl | ⟨_, rfl⟩ | ⟨_, _, _, rfl⟩ | ⟨_, rfl⟩ | ⟨_, rfl⟩ | ⟨_, rfl⟩ := hi
  · rw [ret_frame h]
  · rw [call_frame h]
  · rw [drwVxVyN_frame h]
  · rw [ldBVx_frame h]
  · rw [ldMemVx_frame h]
  · rw [ldVxMem_frame h]

/-! The elements. -/

theorem mem_of_exec (h : exec i s = .next t) : t.mem = s.mem ∨ (∃ x, i = .ldBVx x) ∨ ∃ x, i = .ldMemVx x := by
  cases i
  case ldBVx x => exact .inr (.inl ⟨x, rfl⟩)
  case ldMemVx x => exact .inr (.inr ⟨x, rfl⟩)
  case call => rw [call_frame h]; exact .inl rfl
  case ret => rw [ret_frame h]; exact .inl rfl
  case drwVxVyN => rw [drwVxVyN_frame h]; exact .inl rfl
  case ldVxMem => rw [ldVxMem_frame h]; exact .inl rfl
  all_goals (cases h; exact .inl rfl)

theorem disp_of_exec (h : exec i s = .next t) : t.disp = s.disp ∨ i = .cls ∨ ∃ x y n, i = .drwVxVyN x y n := by
  cases i
  case cls => exact .inr (.inl rfl)
  case drwVxVyN x y n => exact .inr (.inr ⟨x, y, n, rfl⟩)
  case call => rw [call_frame h]; exact .inl rfl
  case ret => rw [ret_frame h]; exact .inl rfl
  case ldBVx => rw [ldBVx_frame h]; exact .inl rfl
  case ldMemVx => rw [ldMemVx_frame h]; exact .inl rfl
  case ldVxMem => rw [ldVxMem_frame h]; exact .inl rfl
  all_goals (cases h; exact .inl rfl)

theorem stack_of_exec (h : exec i s = .next t) : t.stack = s.stack ∨ i = .ret ∨ ∃ nnn, i = .call nnn := by
  cases i
  case ret => exact .inr (.inl rfl)
  case call nnn => exact .inr (.inr ⟨nnn, rfl⟩)
  case drwVxVyN => rw [drwVxVyN_frame h]; exact .inl rfl
  case ldBVx => rw [ldBVx_frame h]; exact .inl rfl
  case ldMemVx => rw [ldMemVx_frame h]; exact .inl rfl
  case ldVxMem => rw [ldVxMem_frame h]; exact .inl rfl
  all_goals (cases h; exact .inl rfl)

theorem i_of_exec (h : exec i s = .next t) :
    t.i = s.i ∨ (∃ nnn, i = .ldINnn nnn) ∨ (∃ x, i = .addIVx x) ∨ ∃ x, i = .ldFVx x := by
  cases i
  case ldINnn nnn => exact .inr (.inl ⟨nnn, rfl⟩)
  case addIVx x => exact .inr (.inr (.inl ⟨x, rfl⟩))
  case ldFVx x => exact .inr (.inr (.inr ⟨x, rfl⟩))
  case call | ret | drwVxVyN | ldBVx | ldMemVx | ldVxMem =>
    rw [canRaise_frame (by simp [CanRaise]) h]; exact .inl rfl
  all_goals (cases h; exact .inl rfl)

theorem dt_of_exec (h : exec i s = .next t) : t.dt = s.dt ∨ ∃ x, i = .ldDtVx x := by
  cases i
  case ldDtVx x => exact .inr ⟨x, rfl⟩
  case call | ret | drwVxVyN | ldBVx | ldMemVx | ldVxMem =>
    rw [canRaise_frame (by simp [CanRaise]) h]; exact .inl rfl
  all_goals (cases h; exact .inl rfl)

theorem st_of_exec (h : exec i s = .next t) : t.st = s.st ∨ ∃ x, i = .ldStVx x := by
  cases i
  case ldStVx x => exact .inr ⟨x, rfl⟩
  case call | ret | drwVxVyN | ldBVx | ldMemVx | ldVxMem =>
    rw [canRaise_frame (by simp [CanRaise]) h]; exact .inl rfl
  all_goals (cases h; exact .inl rfl)

theorem State.skipIf_pc_eq_or (s : State) (c : Bool) : (s.skipIf c).pc = s.pc ∨ (s.skipIf c).pc = s.pc + 2 := by
  cases c
  · exact .inl rfl
  · exact .inr rfl

theorem pc_of_exec (h : exec i s = .next t) :
    t.pc = s.pc ∨ i = .ret ∨ (∃ nnn, i = .jp nnn) ∨ (∃ nnn, i = .call nnn) ∨ (∃ nnn, i = .jpV0Nnn nnn) ∨
      (t.pc = s.pc + 2 ∧ Skips i) := by
  cases i
  case ret => exact .inr (.inl rfl)
  case jp nnn => exact .inr (.inr (.inl ⟨nnn, rfl⟩))
  case call nnn => exact .inr (.inr (.inr (.inl ⟨nnn, rfl⟩)))
  case jpV0Nnn nnn => exact .inr (.inr (.inr (.inr (.inl ⟨nnn, rfl⟩))))
  case seVxKk | sneVxKk | seVxVy | sneVxVy =>
    cases h
    exact (s.skipIf_pc_eq_or _).imp_right fun e => .inr (.inr (.inr (.inr ⟨e, by simp [Skips]⟩)))
  case skpVx | sknpVx =>
    cases h
    exact (s.countKeyQuery.skipIf_pc_eq_or _).imp_right fun e => .inr (.inr (.inr (.inr ⟨e, by simp [Skips]⟩)))
  case drwVxVyN => rw [drwVxVyN_frame h]; exact .inl rfl
  case ldBVx => rw [ldBVx_frame h]; exact .inl rfl
  case ldMemVx => rw [ldMemVx_frame h]; exact .inl rfl
  case ldVxMem => rw [ldVxMem_frame h]; exact .inl rfl
  all_goals (cases h; exact .inl rfl)

/-- The instruction's effect on `run` and `halt_info`: none, or the start of a wait, or a raise; the last two do nothing
else. -/
def RunEffect (i : Instr) (s t : State) : Prop :=
  (t.run = s.run ∧ t.haltInfo = s.haltInfo) ∨ (∃ x, i = .ldVxK x ∧ t = s.setRun (.waitingForKey x)) ∨
    ∃ c w, Raises s i c w ∧ t = s.raise c w

theorem runEffect_guardRange {count : Nat} {body : State}
    (hraises : 4096 < s.i.toNat + count → Raises s i .outOfRange s.rangeWord) (hrun : body.run = s.run)
    (hinfo : body.haltInfo = s.haltInfo) : RunEffect i s (s.guardRange count body) := by
  obtain e | ⟨hout, e⟩ := s.guardRange_cases count body <;> rw [e]
  · exact .inl ⟨hrun, hinfo⟩
  · exact .inr (.inr ⟨_, _, hraises hout, rfl⟩)

theorem runEffect_of_exec (h : exec i s = .next t) : RunEffect i s t := by
  cases i
  case ldVxK x => cases h; exact .inr (.inl ⟨x, rfl, rfl⟩)
  case call nnn =>
    cases h
    obtain ⟨_, e⟩ | ⟨hfull, e⟩ := s.pushAndJump_cases (encode (.call nnn)) (zextNnn nnn) <;> rw [e]
    · exact .inl ⟨rfl, rfl⟩
    · exact .inr (.inr ⟨_, _, .call nnn hfull, rfl⟩)
  case ret =>
    cases h
    obtain ⟨_, _, _, e⟩ | ⟨hempty, e⟩ := s.popToPc_cases (encode .ret) <;> rw [e]
    · exact .inl ⟨rfl, rfl⟩
    · exact .inr (.inr ⟨_, _, .ret hempty, rfl⟩)
  case drwVxVyN x y n => cases h; exact runEffect_guardRange (.drwVxVyN x y n) rfl rfl
  case ldBVx x => cases h; exact runEffect_guardRange (.ldBVx x) rfl rfl
  case ldMemVx x => cases h; exact runEffect_guardRange (.ldMemVx x) rfl rfl
  case ldVxMem x =>
    cases h
    exact runEffect_guardRange (.ldVxMem x) (s.loadRegsAtI_run x) (s.loadRegsAtI_haltInfo x)
  all_goals (cases h; exact .inl ⟨rfl, rfl⟩)

theorem readV_of_exec (h : exec i s = .next t) (r : Reg) : t.readV r = s.readV r ∨ WritesReg i r := by
  cases i
  case ldVxKk x _ | addVxKk x _ | rndVxKk x _ | ldVxVy x _ | orVxVy x _ | andVxVy x _ | xorVxVy x _ | ldVxDt x =>
    cases h
    exact (s.readV_writeV_eq_or x r _).imp_right fun e => by simp [WritesReg, e]
  case addVxVy x _ | subVxVy x _ | shrVx x _ | subnVxVy x _ | shlVx x _ =>
    cases h
    exact (s.readV_writeResultAndFlag_eq_or x r _ _).imp_right fun e => by simpa [WritesReg] using e
  case drwVxVyN x y n =>
    cases h
    obtain e | ⟨_, e⟩ := s.guardRange_cases n.toNat
      ((s.toggleCells (s.drawnCells x y n)).writeFlag (s.collides (s.drawnCells x y n)))
    · rw [e]
      exact (State.readV_writeFlag_eq_or _ r _).imp_right fun e => by simpa [WritesReg] using e
    · rw [e]
      exact .inl rfl
  case ldVxMem x =>
    cases h
    obtain e | ⟨_, e⟩ := s.guardRange_cases (x.val + 1) (s.loadRegsAtI x)
    · rw [e]
      exact (s.readV_loadRegsAtI_eq_or x r).imp_right fun e => by simpa [WritesReg] using e
    · rw [e]
      exact .inl rfl
  case call => rw [call_frame h]; exact .inl rfl
  case ret => rw [ret_frame h]; exact .inl rfl
  case ldBVx => rw [ldBVx_frame h]; exact .inl rfl
  case ldMemVx => rw [ldMemVx_frame h]; exact .inl rfl
  all_goals (cases h; exact .inl rfl)

theorem draws_of_exec (h : exec i s = .next t) :
    (t.randDraws = s.randDraws ∧ t.keyQueries = s.keyQueries) ∨
    (∃ x kk, i = .rndVxKk x kk ∧ t.randDraws = s.randDraws + 1 ∧ t.keyQueries = s.keyQueries) ∨
    (∃ x, (i = .skpVx x ∨ i = .sknpVx x) ∧ t.randDraws = s.randDraws ∧ t.keyQueries = s.keyQueries + 1) := by
  cases i
  case rndVxKk x kk => cases h; exact .inr (.inl ⟨x, kk, rfl, rfl, rfl⟩)
  case skpVx x => cases h; exact .inr (.inr ⟨x, .inl rfl, rfl, rfl⟩)
  case sknpVx x => cases h; exact .inr (.inr ⟨x, .inr rfl, rfl, rfl⟩)
  case call | ret | drwVxVyN | ldBVx | ldMemVx | ldVxMem =>
    rw [canRaise_frame (by simp [CanRaise]) h]; exact .inl ⟨rfl, rfl⟩
  all_goals (cases h; exact .inl ⟨rfl, rfl⟩)

theorem Raises.canRaise {c : Cause} {w : Word} (h : Raises s i c w) : CanRaise i := by
  cases h <;> simp [CanRaise]

end

/-- Settles O43: element by element, the lemmas above. -/
theorem eachElementHasItsWriters : Obligations.EachElementHasItsWriters := by
  intro i s t h
  refine ⟨mem_of_exec h, disp_of_exec h, stack_of_exec h, i_of_exec h, dt_of_exec h, st_of_exec h, pc_of_exec h, ?run,
    readV_of_exec h⟩
  case run =>
    obtain hkept | ⟨x, hi, rfl⟩ | ⟨c, w, hraises, rfl⟩ := runEffect_of_exec h
    · exact .inl hkept
    · exact .inr (.inl ⟨⟨x, hi⟩, rfl⟩)
    · exact .inr (.inr hraises.canRaise)

theorem State.v_eq_of_readV {s t : State} (h : ∀ r, t.readV r = s.readV r) : t.v = s.v :=
  Vector.ext fun k hk => h ⟨k, hk⟩

theorem flagByte_eq_zero_or_one (c : Bool) : flagByte c = 0 ∨ flagByte c = 1 := by
  cases c
  · exact .inl rfl
  · exact .inr rfl

/-- Settles O25: what an instruction leaves in VF by the flag it writes, and for the others by their destinations. -/
theorem onlyListedInstructionsWriteVF : Obligations.OnlyListedInstructionsWriteVF := by
  intro i s t h
  have hregs := readV_of_exec h
  cases i with
  | addVxVy x y | subVxVy x y | shrVx x y | subnVxVy x y | shlVx x y =>
    cases h
    rw [State.readV_writeResultAndFlag_vF]
    exact flagByte_eq_zero_or_one _
  | drwVxVyN x y n =>
    cases h
    obtain e | ⟨_, e⟩ := s.guardRange_cases n.toNat
      ((s.toggleCells (s.drawnCells x y n)).writeFlag (s.collides (s.drawnCells x y n)))
    · rw [e, State.readV_writeFlag_vF]
      exact (flagByte_eq_zero_or_one _).imp_right .inl
    · rw [e]
      exact .inr (.inr ⟨rfl, rfl⟩)
  | ldVxKk x _ | addVxKk x _ | ldVxVy x _ | orVxVy x _ | andVxVy x _ | xorVxVy x _ | rndVxKk x _ | ldVxDt x =>
    exact fun hx => (hregs Reg.vF).resolve_right (by simpa [WritesReg, eq_comm] using hx)
  | ldVxMem x => exact fun hx => (hregs Reg.vF).resolve_right (by simpa [WritesReg] using Fin.lt_last_iff_ne_last.2 hx)
  | _ => exact State.v_eq_of_readV fun r => (hregs r).resolve_right (by simp [WritesReg])

/-! ST and `halt_info` are not read (R17, R19). -/

/-- `u` and `t` agree in everything but ST and `halt_info`. -/
def AgreeButStHalt (u t : State) : Prop := ∃ b w, u = { t with st := b, haltInfo := w }

theorem pushAndJump_agreeButStHalt {u t : State} (op target : Word) (h : AgreeButStHalt u t) :
    AgreeButStHalt (u.pushAndJump op target) (t.pushAndJump op target) := by
  obtain ⟨b, w, rfl⟩ := h
  unfold State.pushAndJump
  split
  · exact ⟨b, w, rfl⟩
  · exact ⟨b, op, rfl⟩

theorem popToPc_agreeButStHalt {u t : State} (op : Word) (h : AgreeButStHalt u t) :
    AgreeButStHalt (u.popToPc op) (t.popToPc op) := by
  obtain ⟨b, w, rfl⟩ := h
  cases hlast : t.stack.getLast? with
  | some top => simp only [State.popToPc, hlast]; exact ⟨b, w, rfl⟩
  | none => simp only [State.popToPc, hlast]; exact ⟨b, op, rfl⟩

theorem guardRange_agreeButStHalt {u t ubody tbody : State} (count : Nat) (h : AgreeButStHalt u t)
    (hbody : AgreeButStHalt ubody tbody) : AgreeButStHalt (u.guardRange count ubody) (t.guardRange count tbody) := by
  obtain ⟨b, w, rfl⟩ := h
  cases hfault : rangeFault t.i.toNat count with
  | some a => simp only [State.guardRange, hfault]; exact ⟨b, BitVec.ofNat 16 a, rfl⟩
  | none => simp only [State.guardRange, hfault]; exact hbody

theorem exec_agreeButStHalt {i : Instr} {s s' t u : State} (hs : AgreeButStHalt s' s) (h : exec i s = .next t)
    (hu : exec i s' = .next u) : AgreeButStHalt u t := by
  cases i
  case call => cases h; cases hu; exact pushAndJump_agreeButStHalt _ _ hs
  case ret => cases h; cases hu; exact popToPc_agreeButStHalt _ hs
  case drwVxVyN | ldBVx | ldMemVx | ldVxMem =>
    cases h; cases hu
    refine guardRange_agreeButStHalt _ hs ?_
    obtain ⟨b, w, rfl⟩ := hs
    exact ⟨b, w, rfl⟩
  all_goals
    obtain ⟨b, w, rfl⟩ := hs
    cases h; cases hu
    exact ⟨_, w, rfl⟩

/-- Settles O57: from two states that agree but for ST and `halt_info`, an instruction leads to two such states. -/
theorem noInstructionReadsSTOrHaltInfo : Obligations.NoInstructionReadsSTOrHaltInfo := by
  intro i s t b w h
  obtain ⟨u, hu⟩ := exec_total i { s with st := b, haltInfo := w }
  obtain ⟨_, _, rfl⟩ := exec_agreeButStHalt ⟨b, w, rfl⟩ h hu
  exact ⟨_, hu, rfl⟩

end Sys2Proof.Machine
end

section
/-! Frames: a frame of the empty change, frames in a row, and the frame of each operation on the state. -/

namespace Sys2Proof.Machine

/-- What two steps of a computation may change together. -/
def Changes.union (c d : Changes) : Changes where
  regs r := c.regs r || d.regs r
  i := c.i || d.i
  pc := c.pc || d.pc
  stack := c.stack || d.stack
  dt := c.dt || d.dt
  st := c.st || d.st
  run := c.run || d.run
  mem := c.mem || d.mem
  disp := c.disp || d.disp
  randDraws := c.randDraws || d.randDraws
  keyQueries := c.keyQueries || d.keyQueries

theorem SameExcept.refl (c : Changes) (s : State) : SameExcept c s s where
  regs _ _ := rfl
  i _ := rfl
  pc _ := rfl
  stack _ := rfl
  dt _ := rfl
  st _ := rfl
  run _ := ⟨rfl, rfl⟩
  mem _ _ := rfl
  disp _ _ _ := rfl
  randDraws _ := rfl
  keyQueries _ := rfl

/-- An element that neither of two changes names keeps its value through both. -/
theorem eq_of_or_eq_false {α : Type} {p q : Bool} {a b c : α} (hab : p = false → b = a) (hbc : q = false → c = b)
    (h : (p || q) = false) : c = a :=
  have ⟨hp, hq⟩ := Bool.or_eq_false_iff.1 h
  (hbc hq).trans (hab hp)

theorem SameExcept.trans {c d : Changes} {s t u : State} (h : SameExcept c s t) (k : SameExcept d t u) :
    SameExcept (c.union d) s u where
  regs r := eq_of_or_eq_false (h.regs r) (k.regs r)
  i := eq_of_or_eq_false h.i k.i
  pc := eq_of_or_eq_false h.pc k.pc
  stack := eq_of_or_eq_false h.stack k.stack
  dt := eq_of_or_eq_false h.dt k.dt
  st := eq_of_or_eq_false h.st k.st
  run hf := ⟨eq_of_or_eq_false (fun e => (h.run e).1) (fun e => (k.run e).1) hf,
    eq_of_or_eq_false (fun e => (h.run e).2) (fun e => (k.run e).2) hf⟩
  mem hf a := eq_of_or_eq_false (fun e => h.mem e a) (fun e => k.mem e a) hf
  disp hf x y := eq_of_or_eq_false (fun e => h.disp e x y) (fun e => k.disp e x y) hf
  randDraws := eq_of_or_eq_false h.randDraws k.randDraws
  keyQueries := eq_of_or_eq_false h.keyQueries k.keyQueries

section
variable (s : State)

theorem State.setI_sameExcept (w : Word) : SameExcept { i := true } s (s.setI w) :=
  { SameExcept.refl { i := true } s with i := nofun }

theorem State.setDt_sameExcept (b : Byte) : SameExcept { dt := true } s (s.setDt b) :=
  { SameExcept.refl { dt := true } s with dt := nofun }

theorem State.setSt_sameExcept (b : Byte) : SameExcept { st := true } s (s.setSt b) :=
  { SameExcept.refl { st := true } s with st := nofun }

theorem State.setPcStack_sameExcept (w : Word) (st : List Word) :
    SameExcept { pc := true, stack := true } s { s with pc := w, stack := st } :=
  { SameExcept.refl { pc := true, stack := true } s with pc := nofun, stack := nofun }

theorem State.clearDisp_sameExcept : SameExcept { disp := true } s s.clearDisp :=
  { SameExcept.refl { disp := true } s with disp := nofun }

theorem State.toggleCells_sameExcept (cells : List (Fin 64 × Fin 32)) :
    SameExcept { disp := true } s (s.toggleCells cells) :=
  { SameExcept.refl { disp := true } s with disp := nofun }

theorem State.storeAtI_sameExcept (bytes : List Byte) : SameExcept { mem := true } s (s.storeAtI bytes) :=
  { SameExcept.refl { mem := true } s with mem := nofun }

theorem State.countRandDraw_sameExcept : SameExcept { randDraws := true } s s.countRandDraw :=
  { SameExcept.refl { randDraws := true } s with randDraws := nofun }

theorem State.countKeyQuery_sameExcept : SameExcept { keyQueries := true } s s.countKeyQuery :=
  { SameExcept.refl { keyQueries := true } s with keyQueries := nofun }

theorem State.tick_sameExcept : SameExcept { dt := true, st := true } s s.tick :=
  { SameExcept.refl { dt := true, st := true } s with dt := nofun, st := nofun }

theorem State.loadRegsAtI_sameExcept (x : Reg) : SameExcept { regs := fun r => r ≤ x } s (s.loadRegsAtI x) where
  regs r hr := (s.readV_loadRegsAtI x r).trans (if_neg (of_decide_eq_false hr))
  i _ := s.loadRegsAtI_i x
  pc _ := s.loadRegsAtI_pc x
  stack _ := s.loadRegsAtI_stack x
  dt _ := s.loadRegsAtI_dt x
  st _ := s.loadRegsAtI_st x
  run _ := ⟨s.loadRegsAtI_run x, s.loadRegsAtI_haltInfo x⟩
  mem _ a := congrArg (Memory.read · a) (s.loadRegsAtI_mem x)
  disp _ cx cy := congrArg (Display.cell · cx cy) (s.loadRegsAtI_disp x)
  randDraws _ := s.loadRegsAtI_randDraws x
  keyQueries _ := s.loadRegsAtI_keyQueries x

theorem State.skipIf_sameExcept (c : Bool) : SameExcept { pc := true } s (s.skipIf c) := s.setPc_sameExcept _

theorem State.writeFlag_sameExcept (c : Bool) : SameExcept { regs := fun r => r == Reg.vF } s (s.writeFlag c) :=
  s.writeV_sameExcept Reg.vF _

theorem State.writeResultAndFlag_sameExcept (x : Reg) (r : Byte) (c : Bool) :
    SameExcept { regs := fun q => q == x || q == Reg.vF } s (s.writeResultAndFlag x r c) :=
  (s.writeV_sameExcept x r).trans ((s.writeV x r).writeFlag_sameExcept c)

end

end Sys2Proof.Machine
end

section
/-! The step (R100 to R110, R228, R260 to R267): the end of a step, every way a step can end, and the statements about single
steps, draws and fatal conditions. -/

namespace Sys2Proof.Machine

/-- Sound is on exactly while ST is positive (R229). -/
theorem State.soundOn_iff (s : State) : s.soundOn = true ↔ 0 < s.st.toNat := by
  rw [State.soundOn, bne_iff_ne, ne_eq, ← BitVec.toNat_inj]
  exact Nat.pos_iff_ne_zero.symm

/-- Settles O13: each timer counts down by itself, and the gate is ST > 0. -/
theorem tickCountsDownAndGatesSound : Obligations.TickCountsDownAndGatesSound :=
  fun s => ⟨countDown_toNat s.dt, countDown_toNat s.st, s.tick_sameExcept, s.soundOn_iff⟩

section
variable {s t : State}

/-- The end of a step ticks a core still Running and leaves any other as it is (R106). -/
theorem State.afterInstruction_cases (s : State) :
    (s.run = .running ∧ s.afterInstruction = s.tick) ∨ (s.run ≠ .running ∧ s.afterInstruction = s) :=
  (em (s.run = .running)).imp (fun h => ⟨h, State.afterInstruction_running h⟩)
    fun h => ⟨h, State.afterInstruction_not_running h⟩

/-- The end of a step changes the timers at most. -/
theorem State.afterInstruction_frame (s : State) : ∃ b c, s.afterInstruction = { s with dt := b, st := c } := by
  obtain ⟨_, e⟩ | ⟨_, e⟩ := s.afterInstruction_cases
  · exact ⟨_, _, e⟩
  · exact ⟨s.dt, s.st, e⟩

theorem State.afterInstruction_run (s : State) : s.afterInstruction.run = s.run := by
  obtain ⟨b, c, e⟩ := s.afterInstruction_frame
  rw [e]

/-- A Running core whose two bytes at PC exist decodes and executes them, PC advanced (R100 to R103). -/
theorem step_of_fetch (hrun : s.run = .running) (hpc : s.pc.toNat ≤ 4094) :
    step s = decodeAndExecute s.fetchWord s.advancePc := by
  simp only [step, hrun, s.fetchFault_eq_none_iff.2 hpc]

theorem step_of_fetch_above (hrun : s.run = .running) (hpc : 4094 < s.pc.toNat) :
    step s = .next (s.raise .outOfRange (BitVec.ofNat 16 (max s.pc.toNat 4096))) := by
  have hfault : s.fetchFault = some (max s.pc.toNat 4096) :=
    (rangeFault_eq_some_iff _ _ _).2 ⟨by omega, by omega, rfl⟩
  simp only [step, hrun, hfault]

theorem step_not_running (hrun : s.run ≠ .running) : step s = .next s := by
  cases hr : s.run with
  | running => exact absurd hr hrun
  | waitingForKey x => simp only [step, hr]
  | halted c => simp only [step, hr]

/-- The four ways a step can end (R100 to R106, R110). -/
inductive StepEnds (s : State) : State → Prop where
  | idle (hrun : s.run ≠ .running) : StepEnds s s
  | fetchAbove (hrun : s.run = .running) (hpc : 4094 < s.pc.toNat) :
    StepEnds s (s.raise .outOfRange (BitVec.ofNat 16 (max s.pc.toNat 4096)))
  | unknown (hrun : s.run = .running) (hpc : s.pc.toNat ≤ 4094) (hdec : decode s.fetchWord = none) :
    StepEnds s (s.advancePc.raise .unknownOpcode s.fetchWord)
  | executed {i : Instr} {u : State} (hrun : s.run = .running) (hpc : s.pc.toNat ≤ 4094)
    (hdec : decode s.fetchWord = some i) (hexec : exec i s.advancePc = .next u) : StepEnds s u.afterInstruction

theorem step_total (s : State) : ∃ t, step s = .next t ∧ StepEnds s t := by
  obtain ⟨hrun, e⟩ | ⟨hrun, hpc, e⟩ | ⟨hrun, hpc, hdec, e⟩ | ⟨i, hrun, hpc, hdec, e⟩ := step_cases s
  · exact ⟨s, e, .idle hrun⟩
  · exact ⟨_, e, .fetchAbove hrun hpc⟩
  · exact ⟨_, e, .unknown hrun hpc hdec⟩
  · obtain ⟨u, hu⟩ := exec_total i s.advancePc
    exact ⟨u.afterInstruction, e.trans (congrArg finish hu), .executed hrun hpc hdec hu⟩

theorem stepEnds_of_step (h : step s = .next t) : StepEnds s t := by
  obtain ⟨u, hu, hends⟩ := step_total s
  cases h.symm.trans hu
  exact hends

/-- The instruction of a step, when the step halts the core, raised the cause, and the step did nothing else. -/
theorem raises_of_exec_halts {i : Instr} {u : State} {c : Cause} (hexec : exec i s = .next u) (hrun : s.run = .running)
    (hhalt : u.run = .halted c) : ∃ w, Raises s i c w ∧ u = s.raise c w := by
  obtain ⟨hkept, _⟩ | ⟨x, _, rfl⟩ | ⟨c', w, hraises, rfl⟩ := runEffect_of_exec hexec
  · cases hhalt.symm.trans (hkept.trans hrun)
  · cases hhalt
  · cases hhalt
    exact ⟨w, hraises, rfl⟩

/-- The three ways a step can halt a Running core, in order of priority (R267, R269). -/
theorem step_halts_cases {c : Cause} (hrun : s.run = .running) (h : step s = .next t) (hhalt : t.run = .halted c) :
    (4094 < s.pc.toNat ∧ c = .outOfRange ∧ t = s.raise c (BitVec.ofNat 16 (max s.pc.toNat 4096))) ∨
    (s.pc.toNat ≤ 4094 ∧ decode s.fetchWord = none ∧ c = .unknownOpcode ∧ t = s.advancePc.raise c s.fetchWord) ∨
    (∃ i w, s.pc.toNat ≤ 4094 ∧ decode s.fetchWord = some i ∧ Raises s.advancePc i c w ∧ t = s.advancePc.raise c w) := by
  cases stepEnds_of_step h with
  | idle hidle => exact absurd hrun hidle
  | fetchAbove _ hpc => cases hhalt; exact .inl ⟨hpc, rfl, rfl⟩
  | unknown _ hpc hdec => cases hhalt; exact .inr (.inl ⟨hpc, hdec, rfl, rfl⟩)
  | @executed i u _ hpc hdec hexec =>
    rw [State.afterInstruction_run] at hhalt
    obtain ⟨w, hraises, hu⟩ := raises_of_exec_halts hexec hrun hhalt
    have hstop : u.run ≠ .running := fun e => by cases hhalt.symm.trans e
    exact .inr (.inr ⟨i, w, hpc, hdec, hraises, (State.afterInstruction_not_running hstop).trans hu⟩)

end

/-- The word of an OutOfRange at or above `a`, as a number. -/
theorem toNat_ofNat_max (a : Word) : (BitVec.ofNat 16 (max a.toNat 4096)).toNat = max a.toNat 4096 := by
  rw [BitVec.toNat_ofNat]
  omega

/-- Settles O7: the step of a fetch that decodes is the instruction and the end of the step. -/
theorem stepRunsTheDecodedInstruction : Obligations.StepRunsTheDecodedInstruction := by
  intro s i hrun hpc hdec
  obtain ⟨t, ht⟩ := exec_total i s.advancePc
  have hfetch : s.fetchFault = none := s.fetchFault_eq_none_iff.2 (by omega)
  exact ⟨t, ht, (step_of_decode hrun hfetch hdec).trans (congrArg finish ht)⟩

/-- Settles O8: the fetch raises at the larger of PC and 4096. -/
theorem fetchAboveTheTopHalts : Obligations.FetchAboveTheTopHalts := by
  intro s hrun hpc
  have hinfo : BitVec.ofNat 16 (max s.pc.toNat 4096) = if 4095 < s.pc.toNat then s.pc else 4096 := by
    apply BitVec.eq_of_toNat_eq
    rw [toNat_ofNat_max]
    split
    · omega
    · exact Nat.max_eq_right (by omega)
  rw [step_of_fetch_above hrun hpc, hinfo]
  rfl

/-- Settles O9: the step of a fetch that does not decode is the raise, PC advanced. -/
theorem unknownOpcodeHalts : Obligations.UnknownOpcodeHalts := by
  intro s hrun hpc hdec
  have hfetch : decode s.fetchWord = none := hdec
  rw [step_of_fetch hrun (by omega), decodeAndExecute, hfetch]
  rfl

/-- Settles O11: every way a step can end is a next state. -/
theorem everyStepAnswersANextState : Obligations.EveryStepAnswersANextState :=
  fun s => (step_total s).imp fun _ => And.left

/-- Settles O14, by the four ways a step can end; an instruction that leaves the core not Running touches no timer. -/
theorem oneTickPerExecutedInstruction : Obligations.OneTickPerExecutedInstruction := by
  intro s t h
  cases stepEnds_of_step h with
  | idle hrun => exact .inr ⟨hrun, rfl, rfl⟩
  | fetchAbove => exact .inr ⟨nofun, rfl, rfl⟩
  | unknown => exact .inr ⟨nofun, rfl, rfl⟩
  | @executed i u hrun hpc hdec hexec =>
    obtain ⟨hu, e⟩ | ⟨hu, e⟩ := u.afterInstruction_cases <;> rw [e]
    · exact .inl ⟨i, u, hrun, s.fetchFault_eq_none_iff.2 hpc, hdec, hexec, hu, countDown_toNat u.dt, countDown_toNat u.st,
        u.tick_sameExcept⟩
    · obtain ⟨hkept, _⟩ | ⟨x, _, rfl⟩ | ⟨c, w, _, rfl⟩ := runEffect_of_exec hexec
      · exact absurd (hkept.trans hrun) hu
      · exact .inr ⟨hu, rfl, rfl⟩
      · exact .inr ⟨hu, rfl, rfl⟩

/-- Settles O29: of the ways a step can end only an instruction draws, and the tick after it draws nothing. -/
theorem onlyRndAndKeySkipsDraw : Obligations.OnlyRndAndKeySkipsDraw := by
  intro s t h
  cases stepEnds_of_step h with
  | idle | fetchAbove | unknown => exact .inl ⟨rfl, rfl⟩
  | @executed i u _ _ hdec hexec =>
    obtain ⟨b, c, e⟩ := u.afterInstruction_frame
    rw [e, hdec]
    obtain hnone | ⟨x, kk, rfl, hdraws⟩ | ⟨x, hi, hqueries⟩ := draws_of_exec hexec
    · exact .inl hnone
    · exact .inr (.inl ⟨x, kk, rfl, hdraws⟩)
    · exact .inr (.inr ⟨x, hi.imp (congrArg some) (congrArg some), hqueries⟩)

/-- Settles O44: each way to halt is a raise, on the state before the step or on that state with PC advanced. -/
theorem fatalConditionsArePrecise : Obligations.FatalConditionsArePrecise := by
  intro s t c hrun h hhalt
  refine ⟨by rw [State.haltOutput, hhalt], ?_⟩
  obtain ⟨hpc, _, rfl⟩ | ⟨hpc, _, _, rfl⟩ | ⟨_, _, hpc, _, _, rfl⟩ := step_halts_cases hrun h hhalt
  · rw [if_neg (by omega)]; rfl
  · rw [if_pos (by omega)]; rfl
  · rw [if_pos (by omega)]; rfl

/-- Settles O45: the ways to halt in their order, and what each instruction raises. -/
theorem causesInOrderOfPriority : Obligations.CausesInOrderOfPriority := by
  intro s t c hrun h hhalt
  obtain ⟨hpc, hc, _⟩ | ⟨hpc, hdec, hc, rfl⟩ | ⟨i, w, hpc, hdec, hraises, rfl⟩ := step_halts_cases hrun h hhalt
  · exact .inl ⟨hpc, hc⟩
  · exact .inr (.inl ⟨hpc, hdec, hc, rfl⟩)
  · refine .inr (.inr ⟨i, hpc, hdec, ?_⟩)
    cases hraises with
    | call nnn hfull => exact .inl ⟨⟨nnn, rfl⟩, rfl, encode_of_decode hdec, hfull⟩
    | ret hempty => exact .inr (.inl ⟨rfl, rfl, rfl, hempty⟩)
    | drwVxVyN x y n => exact .inr (.inr ⟨.inl ⟨x, y, n, rfl⟩, rfl, toNat_ofNat_max s.i⟩)
    | ldBVx x => exact .inr (.inr ⟨.inr (.inl ⟨x, rfl⟩), rfl, toNat_ofNat_max s.i⟩)
    | ldMemVx x => exact .inr (.inr ⟨.inr (.inr (.inl ⟨x, rfl⟩)), rfl, toNat_ofNat_max s.i⟩)
    | ldVxMem x => exact .inr (.inr ⟨.inr (.inr (.inr ⟨x, rfl⟩)), rfl, toNat_ofNat_max s.i⟩)

end Sys2Proof.Machine
end

section
/-! Runs of steps (R108 to R110, R112). -/

namespace Sys2Proof.Machine

theorem runSteps_succ {s t : State} (h : step s = .next t) (count : Nat) : runSteps (count + 1) s = runSteps count t := by
  rw [runSteps, h]

theorem runSteps_not_running {s : State} (hrun : s.run ≠ .running) (count : Nat) : runSteps count s = .next s := by
  induction count with
  | zero => rfl
  | succ n ih => rw [runSteps_succ (step_not_running hrun), ih]

/-- Settles O10, by induction on the number of steps. -/
theorem stepsWhileNotRunningChangeNothing : Obligations.StepsWhileNotRunningChangeNothing :=
  fun _ count hrun => runSteps_not_running hrun count

theorem runSteps_add (m n : Nat) (s : State) : ∃ t, runSteps m s = .next t ∧ runSteps (m + n) s = runSteps n t := by
  induction m generalizing s with
  | zero => exact ⟨s, rfl, by rw [Nat.zero_add]⟩
  | succ m ih =>
    obtain ⟨u, hu, _⟩ := step_total s
    rw [Nat.succ_add, runSteps_succ hu, runSteps_succ hu]
    exact ih u

/-- Settles O55: a run of m + n steps, by induction on m. -/
theorem groupingOfStepsHasNoEffect : Obligations.GroupingOfStepsHasNoEffect := by
  refine ⟨fun s => ⟨rfl, ?one⟩, runSteps_add, fun _ => rfl⟩
  case one =>
    obtain ⟨t, ht, _⟩ := step_total s
    rw [runSteps_succ ht, ht, runSteps]

theorem step_self_jump {s : State} {nnn : BitVec 12} (hrun : s.run = .running) (hfetch : s.fetchFault = none)
    (hdec : decode s.fetchWord = some (.jp nnn)) (hself : nnn.toNat = s.pc.toNat) : step s = .next s.tick := by
  have hpc : zextNnn nnn = s.pc := BitVec.eq_of_toNat_eq ((zextNnn_toNat nnn).trans hself)
  have hstay : s.advancePc.setPc (zextNnn nnn) = s := by rw [hpc]; rfl
  rw [step_of_decode hrun hfetch hdec, exec_jp, hstay, finish, State.afterInstruction_running hrun]

/-- Settles O56, by induction on the number of steps: each is a tick, and a tick leaves the core at the same jump. -/
theorem selfJumpOnlyCountsDownTheTimers : Obligations.SelfJumpOnlyCountsDownTheTimers := by
  intro s nnn count hrun hfetch hdec hself
  induction count generalizing s with
  | zero => exact ⟨s, rfl, SameExcept.refl _ s, rfl, rfl⟩
  | succ n ih =>
    obtain ⟨t, ht, hframe, hdt, hst⟩ := ih s.tick hrun hfetch hdec hself
    rw [s.tick_dt, countDown_toNat] at hdt
    rw [s.tick_st, countDown_toNat] at hst
    exact ⟨t, (runSteps_succ (step_self_jump hrun hfetch hdec hself) n).trans ht, s.tick_sameExcept.trans hframe,
      by omega, by omega⟩

end Sys2Proof.Machine
end

section
/-! The host's transactions (R31, R50, R51, R108, R213, R265, R268, R280, R290, R291): what each does by the state it finds,
and the statements about them. -/

namespace Sys2Proof.Machine

section
variable {s t : State} {bytes : List Byte} {base : Nat}

theorem load_overflow_halted {c : Cause} (h : 4096 < base + bytes.length) (hrun : s.run = .halted c) :
    s.load bytes base = s := by
  rw [State.load, if_neg (Nat.not_le.2 h), hrun]

theorem load_overflow_not_halted (h : 4096 < base + bytes.length) (hrun : ∀ c, s.run ≠ .halted c) :
    s.load bytes base = s.raise .memoryOverflow (BitVec.ofNat 16 base) := by
  rw [State.load, if_neg (Nat.not_le.2 h)]
  cases hr : s.run with
  | running => rfl
  | waitingForKey x => rfl
  | halted c => exact absurd hr (hrun c)

theorem keyPress_waiting {x : Reg} (code : Nat) (hrun : s.run = .waitingForKey x) :
    s.keyPress code = (s.writeV x (BitVec.ofNat 8 code)).setRun .running := by
  rw [State.keyPress, hrun]

theorem keyPress_not_waiting (code : Nat) (hrun : ∀ x, s.run ≠ .waitingForKey x) : s.keyPress code = s := by
  rw [State.keyPress]
  cases hr : s.run with
  | running => rfl
  | waitingForKey x => exact absurd hr (hrun x)
  | halted c => rfl

end

/-- Settles O54: the load that does not fit raises, unless the core is halted already. -/
theorem loadOverflowHalts : Obligations.LoadOverflowHalts :=
  fun _ _ _ h => ⟨load_overflow_not_halted h, fun ⟨_, hrun⟩ => load_overflow_halted h hrun⟩

/-- Settles O35: a key press that resolves a wait is one register write and one write of `run`. -/
theorem keyPressResolvesTheWait : Obligations.KeyPressResolvesTheWait := by
  intro code s
  refine ⟨fun x hrun => ?_, keyPress_not_waiting code⟩
  rw [keyPress_waiting code hrun, State.setRun_readV, State.readV_writeV_same]
  refine ⟨BitVec.toNat_ofNat code 8, rfl, rfl, fun hkey => ?conventional, ?frame⟩
  case conventional =>
    have hcode : code < 16 := of_decide_eq_true hkey
    rw [BitVec.toNat_ofNat]
    omega
  case frame => exact (s.setRun_sameExcept .running).trans ((s.setRun .running).writeV_sameExcept x _)

/-- Settles O46, transaction by transaction. -/
theorem haltedIsLeftOnlyByReset : Obligations.HaltedIsLeftOnlyByReset := by
  intro e s t c hrun h
  have hstop : s.run ≠ .running := fun hr => by cases hrun.symm.trans hr
  cases e with
  | reset => exact .inl rfl
  | load bytes base =>
    cases h
    by_cases hfit : base + bytes.length ≤ 4096
    · rw [s.load_of_fits hfit]
      exact .inr ⟨hrun, rfl, .inr ⟨bytes, base, rfl, rfl⟩⟩
    · rw [load_overflow_halted (Nat.not_le.1 hfit) hrun]
      exact .inr ⟨hrun, rfl, .inl rfl⟩
  | step =>
    cases h.symm.trans (step_not_running hstop)
    exact .inr ⟨hrun, rfl, .inl rfl⟩
  | cycle =>
    cases h.symm.trans (runSteps_not_running hstop hardware.speed)
    exact .inr ⟨hrun, rfl, .inl rfl⟩
  | keyPress code =>
    cases h
    rw [keyPress_not_waiting code fun x hr => by cases hrun.symm.trans hr]
    exact .inr ⟨hrun, rfl, .inl rfl⟩

/-- Settles O47, transaction by transaction. -/
theorem waitingIsLeftOnlyByKeyPressOrReset : Obligations.WaitingIsLeftOnlyByKeyPressOrReset := by
  intro e s t x hrun h
  have hstop : s.run ≠ .running := fun hr => by cases hrun.symm.trans hr
  cases e with
  | reset => cases h; rfl
  | load bytes base =>
    cases h
    by_cases hfit : base + bytes.length ≤ 4096
    · rw [s.load_of_fits hfit]
      exact .inl ⟨hfit, rfl⟩
    · rw [load_overflow_not_halted (Nat.not_le.1 hfit) fun c hr => by cases hrun.symm.trans hr]
      exact .inr ⟨Nat.not_le.1 hfit, rfl⟩
  | step => cases h.symm.trans (step_not_running hstop); rfl
  | cycle => cases h.symm.trans (runSteps_not_running hstop hardware.speed); rfl
  | keyPress code =>
    cases h
    rw [keyPress_waiting code hrun]
    rfl

/-- The first step at 0x200 of a Running core. -/
theorem step_at_0x200 {s : State} (hrun : s.run = .running) (hpc : s.pc = 0x200) :
    step s = decodeAndExecute (s.mem.read 0x200 ++ s.mem.read 0x201) { s with pc := 0x202 } := by
  have hword : s.fetchWord = s.mem.read 0x200 ++ s.mem.read 0x201 := by rw [State.fetchWord, hpc]; rfl
  have hadvance : s.advancePc = { s with pc := 0x202 } := by rw [State.advancePc, hpc]; rfl
  rw [step_of_fetch hrun (by rw [hpc]; decide), hword, hadvance]

/-- Settles O48: reset leaves the core Running at 0x200, and a load that fits writes memory only. -/
theorem executionStartsAt0x200 : Obligations.ExecutionStartsAt0x200 := by
  intro s t h
  cases h
  refine ⟨s.applyReset_run, s.applyReset_pc, step_at_0x200 s.applyReset_run s.applyReset_pc, fun bytes base hfit => ?_⟩
  refine ⟨_, rfl, ?_⟩
  rw [State.load_of_fits _ hfit]
  exact step_at_0x200 s.applyReset_run s.applyReset_pc

/-- Settles O49: the fields of the reset state, and its memory, every cell of which is at its reset content. -/
theorem resetValues : Obligations.ResetValues := by
  intro s t h
  cases h
  refine ⟨s.applyReset_pc, fun r => ?regs, s.applyReset_i, s.applyReset_stack, s.applyReset_dt, s.applyReset_st, ?sound,
    s.applyReset_run, s.applyReset_haltInfo, Display.cell_cleared, ?glyphsLow, ?glyphsHigh, fun a ha => ?above, rfl⟩
  case regs => simp [State.readV, State.reset, Vector.get_eq_getElem]
  case sound => rfl
  case glyphsLow => rw [s.applyReset_mem]; decide
  case glyphsHigh => rw [s.applyReset_mem]; decide
  case above => exact unlisted_above ha

end Sys2Proof.Machine
end

section
/-! The invariant (R15, R19, R122, R182, R260): what each part of it needs of an instruction, the step, and the host's
transactions. -/

namespace Sys2Proof.Machine

theorem HaltRecord.of_running {s : State} (hrun : s.run = .running) (hrec : HaltRecord s) : s.haltInfo = 0 := by
  rwa [HaltRecord, hrun] at hrec

theorem haltRecord_running {s : State} (hrun : s.run = .running) (hinfo : s.haltInfo = 0) : HaltRecord s := by
  rwa [HaltRecord, hrun]

/-- A raise keeps the invariant when the word it records is the one its cause requires. -/
theorem State.Inv.raise {s : State} {c : Cause} {w : Word} (hinv : s.Inv) (hrec : HaltRecord (s.raise c w)) :
    (s.raise c w).Inv :=
  ⟨hinv.memWf, hinv.stackBound, hinv.stackEntries, hinv.pcBound, hrec⟩

section
variable {i : Instr} {s t : State}

theorem memWf_guardRange_storeAtI {count : Nat} {bytes : List Byte} (hwf : s.mem.wf = true) (h0 : count ≠ 0)
    (hlen : bytes.length = count) : (s.guardRange count (s.storeAtI bytes)).mem.wf = true := by
  obtain hgt | hle := Nat.lt_or_ge 4096 (s.i.toNat + count)
  · rw [s.guardRange_of_gt _ h0 hgt]
    exact hwf
  · rw [s.guardRange_of_le _ (.inr hle)]
    exact Memory.wf_writeBlock bytes hwf (hlen ▸ hle)

theorem memWf_of_exec (hwf : s.mem.wf = true) (h : exec i s = .next t) : t.mem.wf = true := by
  obtain e | ⟨x, rfl⟩ | ⟨x, rfl⟩ := mem_of_exec h
  · rwa [e]
  · cases h
    exact memWf_guardRange_storeAtI hwf (by decide) rfl
  · cases h
    exact memWf_guardRange_storeAtI hwf x.val.succ_ne_zero (s.length_regsUpTo x)

theorem toNat_add_two {w : Word} (h : w.toNat ≤ 4096) : (w + 2).toNat = w.toNat + 2 := by
  bv_omega

/-- A return address is at most 4096: only an opcode in memory is executed (R121, R122). -/
def ReturnAddresses (stack : List Word) : Prop := stack.length ≤ 16 ∧ ∀ w ∈ stack, w.toNat ≤ 4096

theorem returnAddresses_of_exec (hstack : ReturnAddresses s.stack) (hpc : s.pc.toNat ≤ 4096) (h : exec i s = .next t) :
    ReturnAddresses t.stack := by
  obtain ⟨hlen, haddr⟩ := hstack
  obtain e | rfl | ⟨nnn, rfl⟩ := stack_of_exec h
  · rw [e]
    exact ⟨hlen, haddr⟩
  · cases h
    obtain ⟨older, w, hs, e⟩ | ⟨_, e⟩ := s.popToPc_cases (encode .ret) <;> rw [e]
    · rw [hs, List.length_append] at hlen
      exact ⟨(Nat.le_add_right _ _).trans hlen, fun v hv => haddr v (hs ▸ List.mem_append_left _ hv)⟩
    · exact ⟨hlen, haddr⟩
  · cases h
    obtain ⟨hroom, e⟩ | ⟨_, e⟩ := s.pushAndJump_cases (encode (.call nnn)) (zextNnn nnn) <;> rw [e]
    · refine ⟨by rw [List.length_append]; exact hroom, fun v hv => ?_⟩
      obtain hold | hnew := List.mem_append.1 hv
      · exact haddr v hold
      · rwa [List.mem_singleton.1 hnew]
    · exact ⟨hlen, haddr⟩

theorem State.indexedTarget_toNat (s : State) (nnn : BitVec 12) :
    (s.indexedTarget nnn).toNat = nnn.toNat + (s.readV 0).toNat := by
  have hbyte : (zextByte (s.readV Reg.v0)).toNat = (s.readV 0).toNat := BitVec.toNat_setWidth_of_le (by decide)
  rw [State.indexedTarget, BitVec.toNat_add, zextNnn_toNat, hbyte]
  omega

/-- From PC at most 4096, the advanced PC of an opcode in memory, no instruction sets PC above 0x10FE (R182). -/
theorem pcBound_of_exec (hstack : ReturnAddresses s.stack) (hpc : s.pc.toNat ≤ 4096) (h : exec i s = .next t) :
    t.pc.toNat ≤ 0x10FE := by
  obtain e | rfl | ⟨nnn, rfl⟩ | ⟨nnn, rfl⟩ | ⟨nnn, rfl⟩ | ⟨e, _⟩ := pc_of_exec h
  · rw [e]; omega
  · cases h
    obtain ⟨older, w, hs, e⟩ | ⟨_, e⟩ := s.popToPc_cases (encode .ret) <;> rw [e]
    · exact (hstack.2 w (by simp [hs])).trans (by decide)
    · exact hpc.trans (by decide)
  · cases h
    rw [State.setPc_pc, zextNnn_toNat]
    omega
  · cases h
    obtain ⟨_, e⟩ | ⟨_, e⟩ := s.pushAndJump_cases (encode (.call nnn)) (zextNnn nnn) <;> rw [e]
    · exact (zextNnn_toNat nnn).trans_le (by omega)
    · exact hpc.trans (by decide)
  · cases h
    rw [State.setPc_pc, State.indexedTarget_toNat]
    omega
  · rw [e, toNat_add_two hpc]
    omega

theorem haltRecord_of_raises {c : Cause} {w : Word} (hlen : s.stack.length ≤ 16) (h : Raises s i c w) :
    HaltRecord (s.raise c w) := by
  cases h with
  | call nnn hfull => exact ⟨opFam_encNnn _ _, le_antisymm hlen hfull⟩
  | ret hempty => exact ⟨rfl, hempty⟩
  | drwVxVyN | ldBVx | ldMemVx | ldVxMem => exact (Nat.le_max_right _ _).trans_eq (toNat_ofNat_max s.i).symm

theorem haltRecord_of_exec (hrun : s.run = .running) (hrec : HaltRecord s) (hlen : s.stack.length ≤ 16)
    (h : exec i s = .next t) : HaltRecord t := by
  obtain ⟨er, ei⟩ | ⟨x, _, rfl⟩ | ⟨c, w, hraises, rfl⟩ := runEffect_of_exec h
  · exact haltRecord_running (er.trans hrun) (ei.trans (hrec.of_running hrun))
  · have hinfo : s.haltInfo = 0 := hrec.of_running hrun
    exact hinfo
  · exact haltRecord_of_raises hlen hraises

theorem inv_of_exec (hinv : s.Inv) (hrun : s.run = .running) (hpc : s.pc.toNat ≤ 4096) (h : exec i s = .next t) : t.Inv :=
  have hstack : ReturnAddresses s.stack := ⟨hinv.stackBound, hinv.stackEntries⟩
  have ⟨hlen, haddr⟩ := returnAddresses_of_exec hstack hpc h
  { memWf := memWf_of_exec hinv.memWf h
    stackBound := hlen
    stackEntries := haddr
    pcBound := pcBound_of_exec hstack hpc h
    haltRecord := haltRecord_of_exec hrun hinv.haltRecord hinv.stackBound h }

theorem advancePc_toNat (hpc : s.pc.toNat ≤ 4094) : s.advancePc.pc.toNat = s.pc.toNat + 2 := by
  rw [State.advancePc_pc, toNat_add_two (hpc.trans (by decide))]

theorem inv_advancePc (hinv : s.Inv) (hpc : s.pc.toNat ≤ 4094) : s.advancePc.Inv :=
  { hinv with pcBound := by rw [advancePc_toNat hpc]; omega }

theorem inv_of_step (hinv : s.Inv) (h : step s = .next t) : t.Inv := by
  cases stepEnds_of_step h with
  | idle => exact hinv
  | fetchAbove => exact hinv.raise ((Nat.le_max_right _ _).trans_eq (toNat_ofNat_max s.pc).symm)
  | unknown _ hpc hdec => exact (inv_advancePc hinv hpc).raise hdec
  | @executed i u hrun hpc _ hexec =>
    have hu : u.Inv := inv_of_exec (inv_advancePc hinv hpc) hrun (by rw [advancePc_toNat hpc]; omega) hexec
    obtain ⟨b, c, e⟩ := u.afterInstruction_frame
    rw [e]
    exact { hu with }

end

/-- Settles O51: each way a step can end keeps each part of the invariant. -/
theorem stepKeepsTheInvariant : Obligations.StepKeepsTheInvariant := fun _ _ => inv_of_step

theorem inv_applyReset (s : State) : s.applyReset.Inv where
  memWf := reset_mem_wf
  stackBound := Nat.zero_le _
  stackEntries := nofun
  pcBound := by rw [s.applyReset_pc]; decide
  haltRecord := s.applyReset_haltInfo

/-- Settles O50: the reset state is a reset of itself. -/
theorem resetMeetsTheInvariant : Obligations.ResetMeetsTheInvariant := inv_applyReset State.reset

theorem inv_load {s : State} (hinv : s.Inv) (bytes : List Byte) (base : Nat) : (s.load bytes base).Inv := by
  obtain hover | hfit := Nat.lt_or_ge 4096 (base + bytes.length)
  · by_cases hrun : ∃ c, s.run = .halted c
    · obtain ⟨c, hrun⟩ := hrun
      rwa [load_overflow_halted hover hrun]
    · rw [load_overflow_not_halted hover (not_exists.1 hrun)]
      exact hinv.raise trivial
  · rw [s.load_of_fits hfit]
    exact { hinv with memWf := Memory.wf_writeBlock bytes hinv.memWf hfit }

theorem inv_keyPress {s : State} (hinv : s.Inv) (code : Nat) : (s.keyPress code).Inv := by
  by_cases hrun : ∃ x, s.run = .waitingForKey x
  · obtain ⟨x, hrun⟩ := hrun
    have hinfo : s.haltInfo = 0 := by simpa only [HaltRecord, hrun] using hinv.haltRecord
    rw [keyPress_waiting code hrun]
    exact { hinv with haltRecord := hinfo }
  · rwa [keyPress_not_waiting code (not_exists.1 hrun)]

theorem inv_runSteps {s t : State} (count : Nat) (hinv : s.Inv) (h : runSteps count s = .next t) : t.Inv := by
  induction count generalizing s with
  | zero => cases h; exact hinv
  | succ n ih =>
    obtain ⟨u, hu, _⟩ := step_total s
    rw [runSteps_succ hu] at h
    exact ih (inv_of_step hinv hu) h

theorem inv_of_transact {e : HostEvent} {s t : State} (hinv : s.Inv) (h : transact e s = .next t) : t.Inv := by
  cases e with
  | reset => cases h; exact inv_applyReset s
  | load bytes base => cases h; exact inv_load hinv bytes base
  | step => exact inv_of_step hinv h
  | cycle => exact inv_runSteps hardware.speed hinv h
  | keyPress code => cases h; exact inv_keyPress hinv code

/-- Settles O52, by induction on the transactions: a reset establishes the invariant and every transaction keeps it. -/
theorem reachableStatesMeetTheInvariant : Obligations.ReachableStatesMeetTheInvariant := by
  intro s hs
  induction hs with
  | reset s => exact inv_applyReset s
  | transact e _ h ih => exact inv_of_transact ih h

end Sys2Proof.Machine
end

section
/-! Memory: the canonical form determines the memory, and the statements about LD B, LD [I], LD Vx, [I] and what a fetch sees
of them (R43, R44, R55, R241 to R243). -/

namespace Sys2Proof.Machine

namespace MemoryLaws

theorem wfFrom_cons_iff {lo a : Nat} {x : Byte} {rest : Memory} :
    Memory.wfFrom lo ((a, x) :: rest) = true ↔
      lo ≤ a ∧ a < 4096 ∧ x ≠ Memory.unlisted a ∧ Memory.wfFrom (a + 1) rest = true := by
  simp only [Memory.wfFrom, memSize_eq, Bool.and_eq_true, decide_eq_true_eq, bne_iff_ne, and_assoc]

theorem read_cons_same (a : Nat) (x : Byte) (rest : Memory) : Memory.read ((a, x) :: rest) a = x := by
  rw [Memory.read, if_pos rfl]

theorem read_cons_ne {a b : Nat} (x : Byte) (rest : Memory) (h : a ≠ b) :
    Memory.read ((a, x) :: rest) b = Memory.read rest b := by
  rw [Memory.read, if_neg h]

/-- A memory that reads alike lists nothing above a canonical memory's first cell only. -/
theorem not_wfFrom_above_head {a : Nat} {x : Byte} {rest m : Memory} (hx : x ≠ Memory.unlisted a)
    (halike : m.read a = Memory.read ((a, x) :: rest) a) : ¬ m.wfFrom (a + 1) = true := by
  intro habove
  rw [read_below habove a.lt_succ_self, read_cons_same] at halike
  exact hx halike.symm

theorem eq_of_read_alike {m m' : Memory} {lo : Nat} (h : m.wfFrom lo = true) (h' : m'.wfFrom lo = true)
    (halike : ∀ a, m.read a = m'.read a) : m = m' := by
  induction m generalizing m' lo with
  | nil =>
    cases m' with
    | nil => rfl
    | cons c' rest' =>
      obtain ⟨_, _, hx', _⟩ := wfFrom_cons_iff.1 h'
      exact absurd rfl (not_wfFrom_above_head hx' (halike c'.1))
  | cons c rest ih =>
    obtain ⟨a, x⟩ := c
    obtain ⟨_, ha, hx, hrest⟩ := wfFrom_cons_iff.1 h
    cases m' with
    | nil => exact absurd rfl (not_wfFrom_above_head hx (halike a).symm)
    | cons c' rest' =>
      obtain ⟨b, y⟩ := c'
      obtain ⟨_, hb, hy, hrest'⟩ := wfFrom_cons_iff.1 h'
      obtain hlt | rfl | hgt := Nat.lt_trichotomy a b
      · exact absurd (wfFrom_cons_iff.2 ⟨hlt, hb, hy, hrest'⟩) (not_wfFrom_above_head hx (halike a).symm)
      · have hxy : x = y := by simpa only [read_cons_same] using halike a
        have hrests : ∀ k, Memory.read rest k = Memory.read rest' k := by
          intro k
          by_cases hk : a = k
          · subst hk
            rw [read_below hrest a.lt_succ_self, read_below hrest' a.lt_succ_self]
          · simpa only [read_cons_ne _ _ hk] using halike k
        rw [hxy, ih hrest hrest' hrests]
      · exact absurd (wfFrom_cons_iff.2 ⟨hgt, ha, hx, hrest⟩) (not_wfFrom_above_head hy (halike b))

end MemoryLaws

/-- Settles O42, by induction on the first memory: the cell with the lower address at the head would be read in one memory
only. -/
theorem canonicalMemoriesThatReadAlikeAreEqual : Obligations.CanonicalMemoriesThatReadAlikeAreEqual :=
  fun _ _ => MemoryLaws.eq_of_read_alike

section
variable (x : Reg) (s : State)

theorem exec_ldBVx : exec (.ldBVx x) s = .next (s.guardRange 3 (s.storeAtI (bcdDigits (s.readV x)))) := rfl
theorem exec_ldMemVx : exec (.ldMemVx x) s = .next (s.guardRange (x.val + 1) (s.storeAtI (s.regsUpTo x))) := rfl
theorem exec_ldVxMem : exec (.ldVxMem x) s = .next (s.guardRange (x.val + 1) (s.loadRegsAtI x)) := rfl

end

section
variable {x : Reg} {s : State}

theorem exec_ldBVx_of_le (h : s.i.toNat + 2 ≤ 4095) :
    exec (.ldBVx x) s = .next (s.storeAtI (bcdDigits (s.readV x))) := by
  rw [exec_ldBVx, s.guardRange_of_le _ (.inr (by omega))]

theorem exec_ldMemVx_of_le (h : s.i.toNat + x.val ≤ 4095) :
    exec (.ldMemVx x) s = .next (s.storeAtI (s.regsUpTo x)) := by
  rw [exec_ldMemVx, s.guardRange_of_le _ (.inr (by omega))]

theorem exec_ldVxMem_of_le (h : s.i.toNat + x.val ≤ 4095) : exec (.ldVxMem x) s = .next (s.loadRegsAtI x) := by
  rw [exec_ldVxMem, s.guardRange_of_le _ (.inr (by omega))]

/-- A guarded instruction whose bytes reach above 4095 halts at the lowest such address (R262). -/
theorem halts_of_exec_eq_guardRange {i : Instr} {count : Nat} {body : State}
    (hexec : exec i s = .next (s.guardRange count body)) (h0 : count ≠ 0) (h : 4096 < s.i.toNat + count) :
    ∃ t, exec i s = .next t ∧ HaltsWith .outOfRange (max s.i.toNat 4096) s t :=
  ⟨_, hexec, s.guardRange_of_gt body h0 h⟩

theorem read_storeAtI_inside {bytes : List Byte} (hwf : s.mem.wf = true) (hb : s.i.toNat + bytes.length ≤ 4096) (k : Nat)
    (hk : k < bytes.length) : (s.storeAtI bytes).mem.read (s.i.toNat + k) = bytes[k] :=
  Memory.read_writeBlock_inside bytes hwf hb k hk

theorem read_storeAtI_outside {bytes : List Byte} {a : Nat} (hwf : s.mem.wf = true)
    (hb : s.i.toNat + bytes.length ≤ 4096) (ha : a < s.i.toNat ∨ s.i.toNat + bytes.length ≤ a) :
    (s.storeAtI bytes).mem.read a = s.mem.read a :=
  Memory.read_writeBlock_outside bytes hwf hb ha

/-- The three bytes LD B stores, as numbers (R241). -/
theorem bcdDigits_toNat (b : Byte) :
    (b / 100).toNat = b.toNat / 100 ∧ (b / 10 % 10).toNat = b.toNat / 10 % 10 ∧ (b % 10).toNat = b.toNat % 10 := by
  refine ⟨BitVec.toNat_udiv, ?_, BitVec.toNat_umod⟩
  rw [BitVec.toNat_umod, BitVec.toNat_udiv]
  rfl

/-- What LD B stores is the three digits (R241). -/
theorem read_storeAtI_bcdDigits (hwf : s.mem.wf = true) (hin : s.i.toNat + 2 ≤ 4095) (b : Byte) :
    (s.storeAtI (bcdDigits b)).mem.read s.i.toNat = b / 100 ∧
      (s.storeAtI (bcdDigits b)).mem.read (s.i.toNat + 1) = b / 10 % 10 ∧
      (s.storeAtI (bcdDigits b)).mem.read (s.i.toNat + 2) = b % 10 := by
  have hlen : (bcdDigits b).length = 3 := rfl
  have hread := read_storeAtI_inside (bytes := bcdDigits b) hwf (by omega)
  exact ⟨hread 0 (by omega), hread 1 (by omega), hread 2 (by omega)⟩

/-- What LD [I] stores is V0 to Vx (R242). -/
theorem read_storeAtI_regsUpTo (hwf : s.mem.wf = true) (hin : s.i.toNat + x.val ≤ 4095) {k : Nat} (hk : k ≤ x.val) :
    (s.storeAtI (s.regsUpTo x)).mem.read (s.i.toNat + k) = s.readV ⟨k, by omega⟩ := by
  have hlen := s.length_regsUpTo x
  rw [read_storeAtI_inside hwf (by omega) k (by omega), State.getElem_regsUpTo]

/-- A fetch reads the two bytes at PC (R44). -/
theorem State.fetchWord_setPc (s : State) (w : Word) :
    (s.setPc w).fetchWord = s.mem.read w.toNat ++ s.mem.read (w.toNat + 1) := rfl

end

/-- Settles O38: the store of the three digits in range, the range check's raise above. -/
theorem bcdStoresThreeDigitsOrHalts : Obligations.BcdStoresThreeDigitsOrHalts := by
  intro x s hwf
  refine ⟨formatXKk_of_encode rfl, fun hin => ?completes, fun hout => ?halts⟩
  case completes =>
    have hlen : (bcdDigits (s.readV x)).length = 3 := rfl
    obtain ⟨h0, h1, h2⟩ := read_storeAtI_bcdDigits hwf hin (s.readV x)
    obtain ⟨hundreds, tens, ones⟩ := bcdDigits_toNat (s.readV x)
    refine ⟨_, exec_ldBVx_of_le hin, ?_, ?_, ?_, fun a ha => read_storeAtI_outside hwf (by omega) (by omega),
      s.storeAtI_sameExcept _⟩
    · rw [h0, hundreds]
    · rw [h1, tens]
    · rw [h2, ones]
  case halts => exact halts_of_exec_eq_guardRange (exec_ldBVx x s) (by decide) (by omega)

/-- Settles O39: the store of V0 to Vx in range, the range check's raise above. -/
theorem blockStoreWritesV0ToVxOrHalts : Obligations.BlockStoreWritesV0ToVxOrHalts := by
  intro x s hwf
  refine ⟨formatXKk_of_encode rfl, fun hin => ?completes, fun hout => ?halts⟩
  case completes =>
    have hlen := s.length_regsUpTo x
    refine ⟨_, exec_ldMemVx_of_le hin, fun k hk => read_storeAtI_regsUpTo hwf hin hk,
      fun a ha => read_storeAtI_outside hwf (by omega) (by omega), s.storeAtI_sameExcept _⟩
  case halts => exact halts_of_exec_eq_guardRange (exec_ldMemVx x s) x.val.succ_ne_zero (by omega)

/-- Settles O40: the load of V0 to Vx in range, the range check's raise above. -/
theorem blockLoadReadsV0ToVxOrHalts : Obligations.BlockLoadReadsV0ToVxOrHalts := by
  intro x s
  refine ⟨formatXKk_of_encode rfl, fun hin => ?completes, fun hout => ?halts⟩
  case completes =>
    exact ⟨_, exec_ldVxMem_of_le hin, fun k hk => (s.readV_loadRegsAtI x k).trans (if_pos hk), s.loadRegsAtI_sameExcept x⟩
  case halts => exact halts_of_exec_eq_guardRange (exec_ldVxMem x s) x.val.succ_ne_zero (by omega)

/-- Settles O41: the load reads at the same I the bytes the store wrote there. -/
theorem blockStoreThenLoadRestoresRegisters : Obligations.BlockStoreThenLoadRestoresRegisters := by
  intro x s hwf hin
  refine ⟨_, exec_ldMemVx_of_le hin, fun u hi hmem => ?_⟩
  rw [State.storeAtI_i] at hi hmem
  refine ⟨_, exec_ldVxMem_of_le (hi ▸ hin), fun k hk => ?_, u.loadRegsAtI_sameExcept x⟩
  rw [u.readV_loadRegsAtI, if_pos hk, hi, hmem k hk]
  exact read_storeAtI_regsUpTo hwf hin hk

/-- Settles O12: a fetch reads two neighbouring bytes of the block that was written. -/
theorem fetchSeesEarlierStores : Obligations.FetchSeesEarlierStores := by
  intro s hwf
  refine ⟨fun x k hk hin => ?block, fun x hin => ?bcd, fun bytes base k hk hin => ?load⟩
  case block =>
    have hpc : (BitVec.ofNat 16 (s.i.toNat + k)).toNat = s.i.toNat + k := Nat.mod_eq_of_lt (by omega)
    refine ⟨_, exec_ldMemVx_of_le (by omega), ?_⟩
    rw [State.fetchWord_setPc, hpc, Nat.add_assoc, read_storeAtI_regsUpTo hwf (by omega) hk.le,
      read_storeAtI_regsUpTo hwf (by omega) hk]
  case bcd =>
    have hpc : (s.i + 1).toNat = s.i.toNat + 1 := by bv_omega
    obtain ⟨h0, h1, h2⟩ := read_storeAtI_bcdDigits hwf (by omega) (s.readV x)
    refine ⟨_, exec_ldBVx_of_le (by omega), ?_, ?_⟩
    · rw [State.fetchWord_setPc, h0, h1]
    · rw [State.fetchWord_setPc, hpc, h1, h2]
  case load =>
    have hpc : (BitVec.ofNat 16 (base + k)).toNat = base + k := Nat.mod_eq_of_lt (by omega)
    rw [State.fetchWord_setPc, hpc, s.load_of_fits hin, Nat.add_assoc, Memory.read_writeBlock_inside bytes hwf hin k (by omega),
      Memory.read_writeBlock_inside bytes hwf hin (k + 1) hk]

end Sys2Proof.Machine
end

section
/-! Drawing (R195 to R199): a DRW in range is one toggle of distinct cells and one flag write, and the statements about DRW
and CLS. -/

namespace Sys2Proof.Machine

section
variable {x y : Reg} {n : BitVec 4} {s : State}

/-- The state a DRW in range leaves (R196). -/
def State.afterDrw (s : State) (x y : Reg) (n : BitVec 4) : State :=
  (s.toggleCells (s.drawnCells x y n)).writeFlag (s.collides (s.drawnCells x y n))

theorem exec_drwVxVyN (x y : Reg) (n : BitVec 4) (s : State) :
    exec (.drwVxVyN x y n) s = .next (s.guardRange n.toNat (s.afterDrw x y n)) := rfl

theorem exec_drwVxVyN_of_le (h : n = 0 ∨ s.i.toNat + n.toNat - 1 ≤ 4095) :
    exec (.drwVxVyN x y n) s = .next (s.afterDrw x y n) := by
  have hrange : n.toNat = 0 ∨ s.i.toNat + n.toNat ≤ 4096 := h.imp (congrArg BitVec.toNat) (by omega)
  rw [exec_drwVxVyN, s.guardRange_of_le _ hrange]

theorem afterDrw_sameExcept : SameExcept { regs := fun r => r == Reg.vF, disp := true } s (s.afterDrw x y n) :=
  (s.toggleCells_sameExcept _).trans (State.writeFlag_sameExcept _ _)

/-- Exactly the sprite's cells are flipped (R196). -/
theorem cell_afterDrw (a : Fin 64) (b : Fin 32) :
    (s.afterDrw x y n).disp.cell a b = if (a, b) ∈ s.drawnCells x y n then !s.disp.cell a b else s.disp.cell a b :=
  Display.cell_toggleAll (drawnCells_nodup s x y n) s.disp a b

theorem readV_afterDrw_vF : (s.afterDrw x y n).readV Reg.vF = flagByte (s.collides (s.drawnCells x y n)) :=
  State.readV_writeFlag_vF _ _

theorem flagByte_eq_one_iff (c : Bool) : flagByte c = 1 ↔ c = true := by
  cases c <;> decide

/-- VF is 1 exactly when one of the sprite's cells was on (R196). -/
theorem readV_afterDrw_vF_eq_one_iff :
    (s.afterDrw x y n).readV Reg.vF = 1 ↔ ∃ a b, (a, b) ∈ s.drawnCells x y n ∧ s.disp.cell a b = true := by
  rw [readV_afterDrw_vF, flagByte_eq_one_iff]
  exact Display.hit_toggleAll (drawnCells_nodup s x y n) s.disp

/-- DRW does not change its own sprite, so a second DRW with the same coordinates toggles the same cells (R199). -/
theorem drawnCells_afterDrw (hx : (s.afterDrw x y n).readV x = s.readV x) (hy : (s.afterDrw x y n).readV y = s.readV y) :
    (s.afterDrw x y n).drawnCells x y n = s.drawnCells x y n := by
  rw [State.drawnCells, hx, hy]
  rfl

end

/-- Settles O30: the cells flipped, the flag and the frame of a DRW in range; above, the range check's raise. -/
theorem drwTogglesTheSpriteOrHalts : Obligations.DrwTogglesTheSpriteOrHalts := by
  intro x y n s
  refine ⟨formatXYN_of_encode rfl, fun hin => ?completes, fun h0 hout => ?halts⟩
  case completes =>
    refine ⟨_, exec_drwVxVyN_of_le hin, fun a b => ?cells, ?flag, ?collision, afterDrw_sameExcept⟩
    case cells =>
      rw [cell_afterDrw, ← mem_drawnCells]
      by_cases hmem : (a, b) ∈ s.drawnCells x y n
      · rw [if_pos hmem]
        exact iff_of_true (Bool.not_ne_self _) hmem
      · rw [if_neg hmem]
        exact iff_of_false (fun hne => hne rfl) hmem
    case flag => rw [readV_afterDrw_vF]; exact flagByte_eq_zero_or_one _
    case collision => simp only [readV_afterDrw_vF_eq_one_iff, mem_drawnCells]
  case halts =>
    have hn : n.toNat ≠ 0 := fun e => h0 (BitVec.eq_of_toNat_eq e)
    exact halts_of_exec_eq_guardRange (exec_drwVxVyN x y n s) hn (by omega)

/-- Settles O32: the second DRW flips the same cells back, and finds on exactly those that the first found off. -/
theorem drawingTwiceRestoresTheDisplay : Obligations.DrawingTwiceRestoresTheDisplay := by
  intro x y n s hin
  refine ⟨_, exec_drwVxVyN_of_le hin, fun ⟨hx, hy⟩ => ⟨_, exec_drwVxVyN_of_le hin, fun a b => ?restored, ?flag⟩⟩
  case restored =>
    rw [cell_afterDrw, drawnCells_afterDrw hx hy, cell_afterDrw]
    split
    · exact Bool.not_not _
    · rfl
  case flag =>
    rw [readV_afterDrw_vF_eq_one_iff, drawnCells_afterDrw hx hy]
    refine exists_congr fun a => exists_congr fun b => ?_
    rw [← mem_drawnCells]
    refine and_congr_right fun hmem => ?_
    rw [cell_afterDrw, if_pos hmem, Bool.not_eq_true_eq_eq_false]

theorem exec_cls (s : State) : exec .cls s = .next s.clearDisp := rfl

/-- Settles O31: CLS is one write of the cleared grid. -/
theorem clsTurnsAllCellsOff : Obligations.ClsTurnsAllCellsOff :=
  fun s => ⟨rfl, s.clearDisp, exec_cls s, Display.cell_cleared, s.clearDisp_sameExcept⟩

end Sys2Proof.Machine
end

section
/-! Control flow and addressing (R121 to R126, R180 to R182, R210, R211, R240): calls and returns, the six skips as one
operation, and the writes of I and PC. -/

namespace Sys2Proof.Machine

theorem formatNnn_of_encode {i : Instr} {f : BitVec 4} {nnn : BitVec 12} (h : encode i = encNnn f nnn) :
    FormatNnn i f nnn := by
  rw [FormatNnn, h]
  exact ⟨opFam_encNnn .., opNnn_encNnn ..⟩

section
variable (nnn : BitVec 12) (s : State)

theorem exec_call : exec (.call nnn) s = .next (s.pushAndJump (encode (.call nnn)) (zextNnn nnn)) := rfl
theorem exec_ret : exec .ret s = .next (s.popToPc (encode .ret)) := rfl

/-- CALL with room on the stack (R121). -/
theorem exec_call_of_room (h : s.stack.length < 16) :
    exec (.call nnn) s = .next { s with stack := s.stack ++ [s.pc], pc := zextNnn nnn } :=
  congrArg Host.Outcome.next (if_pos h)

/-- RET with an address on the stack (R122). -/
theorem exec_ret_of_concat {older : List Word} {w : Word} (h : s.stack = older ++ [w]) :
    exec .ret s = .next { s with stack := older, pc := w } := by
  rw [exec_ret, State.popToPc, h, List.getLast?_concat, List.dropLast_concat]

end

/-- Settles O16: the push with room on the stack, the raise without. -/
theorem callPushesOrOverflows : Obligations.CallPushesOrOverflows := by
  intro nnn s
  refine ⟨formatNnn_of_encode rfl, fun hroom => ?completes, fun hfull => ?halts⟩
  case completes =>
    exact ⟨_, exec_call_of_room nnn s hroom, rfl, zextNnn_toNat nnn, s.setPcStack_sameExcept _ _⟩
  case halts =>
    have hword : encode (.call nnn) = BitVec.ofNat 16 (0x2000 + nnn.toNat) := by
      apply BitVec.eq_of_toNat_eq
      rw [encode, encNnn_toNat, BitVec.toNat_ofNat, Nat.mod_eq_of_lt (by omega)]
      rfl
    refine ⟨_, exec_call nnn s, ?_⟩
    rw [State.pushAndJump, if_neg (by rw [stackDepth_eq]; omega), hword]
    rfl

/-- Settles O17: the pop with an address on the stack, the raise without. -/
theorem retPopsOrUnderflows : Obligations.RetPopsOrUnderflows := by
  intro s
  refine ⟨rfl, fun older w hs => ?completes, fun hempty => ?halts⟩
  case completes => exact ⟨_, exec_ret_of_concat s hs, rfl, rfl, s.setPcStack_sameExcept _ _⟩
  case halts =>
    refine ⟨_, exec_ret s, ?_⟩
    rw [State.popToPc, hempty]
    rfl

/-- Settles O18: RET pops the address that CALL pushed last. -/
theorem callThenRetReturns : Obligations.CallThenRetReturns := by
  intro nnn s hroom
  exact ⟨_, exec_call_of_room nnn s hroom, fun u hu => ⟨_, exec_ret_of_concat u hu, rfl, rfl, u.setPcStack_sameExcept _ _⟩⟩

section
variable {i : Instr} {s : State} {c : Bool} {p : Nat}

theorem State.skipIf_pc_toNat (s : State) (c : Bool) :
    (s.skipIf c).pc.toNat = (s.pc.toNat + if c then 2 else 0) % 65536 := by
  cases c
  · exact (Nat.mod_eq_of_lt s.pc.isLt).symm
  · exact BitVec.toNat_add s.pc 2

/-- An instruction that is one skip advances PC by the extra `p` of its condition, and changes nothing else. -/
theorem completes_of_exec_eq_skipIf (hexec : exec i s = .next (s.skipIf c)) (hp : (if c then 2 else 0) = p) :
    ∃ t, exec i s = .next t ∧ t.pc.toNat = (s.pc.toNat + p) % 65536 ∧ SameExcept { pc := true } s t :=
  ⟨_, hexec, hp ▸ s.skipIf_pc_toNat c, s.skipIf_sameExcept c⟩

/-- A key skip is a query and a skip (R210, R211). -/
theorem completes_of_exec_eq_query_skipIf (hexec : exec i s = .next (s.countKeyQuery.skipIf c))
    (hp : (if c then 2 else 0) = p) :
    ∃ t, exec i s = .next t ∧ t.pc.toNat = (s.pc.toNat + p) % 65536 ∧ t.keyQueries = s.keyQueries + 1 ∧
      SameExcept { pc := true, keyQueries := true } s t :=
  ⟨_, hexec, hp ▸ s.countKeyQuery.skipIf_pc_toNat c, rfl,
    s.countKeyQuery_sameExcept.trans (s.countKeyQuery.skipIf_sameExcept c)⟩

theorem extra_of_beq (a b : Byte) : (if a == b then 2 else 0) = if a.toNat = b.toNat then 2 else 0 := by
  simp only [beq_iff_eq, BitVec.toNat_inj]

theorem extra_of_bne (a b : Byte) : (if a != b then 2 else 0) = if a.toNat = b.toNat then 0 else 2 := by
  simp only [bne_iff_ne, ne_eq, BitVec.toNat_inj, ite_not]

theorem extra_of_not (c : Bool) : (if !c then 2 else 0) = if c then 0 else 2 := by
  cases c <;> rfl

end

section
variable (x y : Reg) (kk : Byte) (n : BitVec 4) (nnn : BitVec 12) (s : State)

theorem exec_seVxKk : exec (.seVxKk x kk) s = .next (s.skipIf (s.readV x == kk)) := rfl
theorem exec_sneVxKk : exec (.sneVxKk x kk) s = .next (s.skipIf (s.readV x != kk)) := rfl
theorem exec_seVxVy : exec (.seVxVy x y n) s = .next (s.skipIf (s.readV x == s.readV y)) := rfl
theorem exec_sneVxVy : exec (.sneVxVy x y n) s = .next (s.skipIf (s.readV x != s.readV y)) := rfl
theorem exec_skpVx : exec (.skpVx x) s = .next (s.countKeyQuery.skipIf (s.nextKeyAnswer (s.readV x))) := rfl
theorem exec_sknpVx : exec (.sknpVx x) s = .next (s.countKeyQuery.skipIf (!s.nextKeyAnswer (s.readV x))) := rfl
theorem exec_ldINnn : exec (.ldINnn nnn) s = .next (s.setI (zextNnn nnn)) := rfl
theorem exec_addIVx : exec (.addIVx x) s = .next (s.setI (s.i + zextByte (s.readV x))) := rfl
theorem exec_jpV0Nnn : exec (.jpV0Nnn nnn) s = .next (s.setPc (s.indexedTarget nnn)) := rfl
theorem exec_ldFVx : exec (.ldFVx x) s = .next (s.setI (glyphAddress (s.readV x))) := rfl

end

/-- Settles O19: each comparison is one skip. -/
theorem comparisonsSkip : Obligations.ComparisonsSkip := by
  intro x y kk n s
  exact ⟨⟨formatXKk_of_encode rfl, completes_of_exec_eq_skipIf (exec_seVxKk x kk s) (extra_of_beq _ _)⟩,
    ⟨formatXKk_of_encode rfl, completes_of_exec_eq_skipIf (exec_sneVxKk x kk s) (extra_of_bne _ _)⟩,
    ⟨formatXYN_of_encode rfl, completes_of_exec_eq_skipIf (exec_seVxVy x y n s) (extra_of_beq _ _)⟩,
    formatXYN_of_encode rfl, completes_of_exec_eq_skipIf (exec_sneVxVy x y n s) (extra_of_bne _ _)⟩

/-- Settles O33: each key skip is one query and one skip on its answer. -/
theorem keySkipsFollowTheAnswer : Obligations.KeySkipsFollowTheAnswer := by
  intro x s
  exact ⟨⟨formatXKk_of_encode rfl, completes_of_exec_eq_query_skipIf (exec_skpVx x s) rfl⟩,
    formatXKk_of_encode rfl, completes_of_exec_eq_query_skipIf (exec_sknpVx x s) (extra_of_not _)⟩

/-- Zero extension keeps the number (R73). -/
theorem zextByte_toNat (b : Byte) : (zextByte b).toNat = b.toNat := BitVec.toNat_setWidth_of_le (by decide)

/-- Settles O26: each is one write of I. -/
theorem addressRegisterLoadAndAdd : Obligations.AddressRegisterLoadAndAdd := by
  intro nnn x s
  refine ⟨⟨formatNnn_of_encode rfl, _, exec_ldINnn nnn s, zextNnn_toNat nnn, s.setI_sameExcept _⟩,
    formatXKk_of_encode rfl, _, exec_addIVx x s, ?sum, s.setI_sameExcept _⟩
  case sum => rw [State.setI_i, BitVec.toNat_add, zextByte_toNat]

/-- Settles O27: the sum of a 12-bit and an 8-bit number does not wrap. -/
theorem indexedJumpAddsV0 : Obligations.IndexedJumpAddsV0 := by
  intro nnn s
  have htarget : (s.setPc (s.indexedTarget nnn)).pc.toNat = nnn.toNat + (s.readV 0).toNat := s.indexedTarget_toNat nnn
  exact ⟨formatNnn_of_encode rfl, _, exec_jpV0Nnn nnn s, htarget, by omega, s.setPc_sameExcept _⟩

/-- Settles O37: five times a byte does not wrap. -/
theorem glyphAddressIsFiveTimesTheDigit : Obligations.GlyphAddressIsFiveTimesTheDigit := by
  intro x s
  have hfive : (glyphAddress (s.readV x)).toNat = (s.readV x).toNat * 5 := by
    have hbytes : (BitVec.ofNat 16 Config.glyphBytes).toNat = 5 := rfl
    rw [glyphAddress, BitVec.toNat_mul, zextByte_toNat, hbytes]
    omega
  exact ⟨formatXKk_of_encode rfl, _, exec_ldFVx x s, hfive, s.setI_sameExcept _⟩

end Sys2Proof.Machine
end

section
/-! Flagged arithmetic, RND and the timers (R161 to R165, R190, R225 to R227). -/

namespace Sys2Proof.Machine

/-- An instruction that writes a result and then a flag completes, leaves in the destination, unless it is VF, a byte with
every property `P` of the result, leaves in VF a byte with every property `Q` of the flag, and changes nothing else. -/
theorem completes_of_exec_eq_writeResultAndFlag {i : Instr} {s : State} {x : Reg} {r : Byte} {c : Bool} (P Q : Byte → Prop)
    (hexec : exec i s = .next (s.writeResultAndFlag x r c)) (hr : P r) (hc : Q (flagByte c)) :
    ∃ t, exec i s = .next t ∧ (x ≠ Reg.vF → P (t.readV x)) ∧ Q (t.readV Reg.vF) ∧
      SameExcept { regs := fun q => q == x || q == Reg.vF } s t :=
  ⟨_, hexec, fun hx => (s.readV_writeResultAndFlag_dest r c hx).symm ▸ hr,
    (s.readV_writeResultAndFlag_vF x r c).symm ▸ hc, s.writeResultAndFlag_sameExcept x r c⟩

section
variable (x y : Reg) (kk : Byte) (s : State)

theorem exec_addVxVy :
    exec (.addVxVy x y) s = .next (s.writeResultAndFlag x (s.readV x + s.readV y) (addFlag (s.readV x) (s.readV y))) := rfl
theorem exec_subVxVy :
    exec (.subVxVy x y) s = .next (s.writeResultAndFlag x (s.readV x - s.readV y) (subFlag (s.readV x) (s.readV y))) := rfl
theorem exec_shrVx :
    exec (.shrVx x y) s = .next (s.writeResultAndFlag x (s.readV x >>> 1) (shrFlag (s.readV x))) := rfl
theorem exec_subnVxVy :
    exec (.subnVxVy x y) s = .next (s.writeResultAndFlag x (s.readV y - s.readV x) (subFlag (s.readV y) (s.readV x))) := rfl
theorem exec_shlVx :
    exec (.shlVx x y) s = .next (s.writeResultAndFlag x (s.readV x <<< 1) (shlFlag (s.readV x))) := rfl
theorem exec_rndVxKk : exec (.rndVxKk x kk) s = .next (s.rndWith s.nextRandByte x kk) := rfl
theorem exec_ldVxDt : exec (.ldVxDt x) s = .next (s.writeV x s.dt) := rfl
theorem exec_ldDtVx : exec (.ldDtVx x) s = .next (s.setDt (s.readV x)) := rfl
theorem exec_ldStVx : exec (.ldStVx x) s = .next (s.setSt (s.readV x)) := rfl

end

section
variable (a b : Byte)

theorem flagByte_addFlag : flagByte (addFlag a b) = if a.toNat + b.toNat > 255 then 1 else 0 := by
  simp only [flagByte, addFlag, decide_eq_true_eq, gt_iff_lt]

theorem flagByte_subFlag : flagByte (subFlag a b) = if a.toNat > b.toNat then 1 else 0 := by
  simp only [flagByte, subFlag, decide_eq_true_eq, gt_iff_lt]

theorem toNat_sub_byte : ((a - b).toNat : Int) = (a.toNat - b.toNat : Int) % 256 := by
  rw [BitVec.toNat_sub]
  omega

theorem toNat_ushiftRight_one : (a >>> 1).toNat = a.toNat / 2 := by
  rw [BitVec.toNat_ushiftRight, Nat.shiftRight_eq_div_pow]

theorem toNat_shiftLeft_one : (a <<< 1).toNat = a.toNat * 2 % 256 := by
  rw [BitVec.toNat_shiftLeft, Nat.shiftLeft_eq]

theorem flagByte_shrFlag_toNat : (flagByte (shrFlag a)).toNat = a.toNat % 2 := by
  rw [flagByte_toNat, shrFlag, BitVec.getLsbD, Nat.toNat_testBit]
  omega

theorem flagByte_shlFlag_toNat : (flagByte (shlFlag a)).toNat = a.toNat / 128 := by
  rw [flagByte_toNat, shlFlag, BitVec.getLsbD, Nat.toNat_testBit]
  omega

end

/-- Settles O22: the sum of two bytes is the sum mod 256, and the flag is written last. -/
theorem addWritesSumAndCarry : Obligations.AddWritesSumAndCarry := by
  intro x y s
  exact ⟨formatXYN_of_encode rfl, completes_of_exec_eq_writeResultAndFlag
    (fun r => r.toNat = ((s.readV x).toNat + (s.readV y).toNat) % 256)
    (· = if (s.readV x).toNat + (s.readV y).toNat > 255 then 1 else 0)
    (exec_addVxVy x y s) (BitVec.toNat_add _ _) (flagByte_addFlag _ _)⟩

/-- Settles O23: the same flagged write, with the operands in either order. -/
theorem subAndSubnWriteDifferenceAndNoBorrow : Obligations.SubAndSubnWriteDifferenceAndNoBorrow := by
  intro x y s
  refine ⟨⟨formatXYN_of_encode rfl, ?sub⟩, formatXYN_of_encode rfl, ?subn⟩
  case sub =>
    exact completes_of_exec_eq_writeResultAndFlag
      (fun r => (r.toNat : Int) = ((s.readV x).toNat - (s.readV y).toNat : Int) % 256)
      (· = if (s.readV x).toNat > (s.readV y).toNat then 1 else 0)
      (exec_subVxVy x y s) (toNat_sub_byte _ _) (flagByte_subFlag _ _)
  case subn =>
    exact completes_of_exec_eq_writeResultAndFlag
      (fun r => (r.toNat : Int) = ((s.readV y).toNat - (s.readV x).toNat : Int) % 256)
      (· = if (s.readV y).toNat > (s.readV x).toNat then 1 else 0)
      (exec_subnVxVy x y s) (toNat_sub_byte _ _) (flagByte_subFlag _ _)

/-- Settles O24: a shift by one halves or doubles, and bit 0 or bit 7 is the remainder or quotient lost. -/
theorem shiftsWriteResultAndBitOut : Obligations.ShiftsWriteResultAndBitOut := by
  intro x y s
  refine ⟨⟨formatXYN_of_encode rfl, ?shr⟩, formatXYN_of_encode rfl, ?shl⟩
  case shr =>
    exact completes_of_exec_eq_writeResultAndFlag (fun r => r.toNat = (s.readV x).toNat / 2)
      (fun r => r.toNat = (s.readV x).toNat % 2) (exec_shrVx x y s) (toNat_ushiftRight_one _) (flagByte_shrFlag_toNat _)
  case shl =>
    exact completes_of_exec_eq_writeResultAndFlag (fun r => r.toNat = (s.readV x).toNat * 2 % 256)
      (fun r => r.toNat = (s.readV x).toNat / 128) (exec_shlVx x y s) (toNat_shiftLeft_one _) (flagByte_shlFlag_toNat _)

/-- Settles O28: RND is one register write and one count, whatever the byte. -/
theorem rndMasksTheDrawnByte : Obligations.RndMasksTheDrawnByte := by
  intro x kk s
  refine ⟨formatXKk_of_encode rfl, exec_rndVxKk x kk s, fun r => ⟨s.readV_writeV_same x (r &&& kk), rfl, ?_⟩⟩
  exact s.countRandDraw_sameExcept.trans (s.countRandDraw.writeV_sameExcept x (r &&& kk))

/-- A step whose instruction leaves the core Running ends with the tick (R106). -/
theorem step_of_exec_running {s u : State} {i : Instr} (hrun : s.run = .running) (hfetch : s.fetchFault = none)
    (hdec : decode s.fetchWord = some i) (hexec : exec i s.advancePc = .next u) (hu : u.run = .running) :
    step s = .next u.tick := by
  rw [step_of_decode hrun hfetch hdec, hexec, finish, State.afterInstruction_running hu]

/-- Settles O36: each is one write, and the step's tick follows it. -/
theorem timerTransfers : Obligations.TimerTransfers := by
  intro x s
  refine ⟨⟨formatXKk_of_encode rfl, completes_of_exec_eq_writeV (· = s.dt) (exec_ldVxDt x s) rfl⟩,
    ⟨formatXKk_of_encode rfl, _, exec_ldDtVx x s, rfl, s.setDt_sameExcept _⟩,
    ⟨formatXKk_of_encode rfl, _, exec_ldStVx x s, rfl, s.setSt_sameExcept _⟩, fun hrun hfetch => ⟨?_, ?_, ?_⟩⟩
  · exact fun hdec => ⟨_, step_of_exec_running hrun hfetch hdec (exec_ldVxDt x _) hrun,
      s.advancePc.readV_writeV_same x s.dt, countDown_toNat _⟩
  · exact fun hdec => ⟨_, step_of_exec_running hrun hfetch hdec (exec_ldDtVx x _) hrun, countDown_toNat _⟩
  · intro hdec
    have hst := countDown_toNat (s.readV x)
    refine ⟨_, step_of_exec_running hrun hfetch hdec (exec_ldStVx x _) hrun, hst, ?_⟩
    have hstored : (s.advancePc.setSt (s.advancePc.readV x)).st = s.readV x := rfl
    rw [State.soundOn_iff, State.tick_st, hstored, hst, Nat.sub_pos_iff_lt]

end Sys2Proof.Machine
end
